-- ==== Sys2Proof/Word.lean ====
section
/-! DEFINITION. The word types of the Caernik 9 and their plainest arithmetic: bit-vector names, byte lists in
little-endian order, and 64 B images (events, descriptors) seen as byte lists. -/
namespace Sys2Proof

abbrev Byte := BitVec 8
abbrev W16 := BitVec 16
abbrev W32 := BitVec 32
abbrev W64 := BitVec 64
/-- A 512-bit image: a descriptor (R71) or an event (R353, R384). -/
abbrev W512 := BitVec 512

/-- Bits [hi:lo] of a natural number, as the manual writes bit ranges. -/
def bits (v hi lo : Nat) : Nat := v / 2 ^ lo % 2 ^ (hi + 1 - lo)

/-- `v` with bits [hi:lo] replaced by `f`. -/
def putBits (v hi lo f : Nat) : Nat :=
  v - bits v hi lo * 2 ^ lo + f % 2 ^ (hi + 1 - lo) * 2 ^ lo

/-- The `n` little-endian bytes of a natural number (R75: elements are stored little-endian). -/
def leBytes : Nat → Nat → List Byte
  | 0, _ => []
  | n + 1, v => BitVec.ofNat 8 v :: leBytes n (v / 256)

/-- The number that a little-endian byte list spells. -/
def leNat : List Byte → Nat
  | [] => 0
  | b :: bs => b.toNat + 256 * leNat bs

/-- Smallest multiple of 64 that is at least `n` (the manual's roundup64). -/
def roundup64 (n : Nat) : Nat := (n + 63) / 64 * 64

/-- ⌈a / b⌉ for b > 0. -/
def cdiv (a b : Nat) : Nat := (a + b - 1) / b

/-- Field [hi:lo] of a 64-bit register value. -/
def fld (v : W64) (hi lo : Nat) : Nat := bits v.toNat hi lo

/-- Register value with field [hi:lo] replaced. -/
def setFld (v : W64) (hi lo f : Nat) : W64 := BitVec.ofNat 64 (putBits v.toNat hi lo f)

/-- One bit of a 64-bit register value. -/
def bitOf (v : W64) (i : Nat) : Bool := v.getLsbD i

/-- Sign extension of the low `n` bits of a 64-bit value. -/
def sext (n : Nat) (v : W64) : W64 := ((v.setWidth n).signExtend 64)

/-- 1 or 0. -/
def b2n (b : Bool) : Nat := if b then 1 else 0

end Sys2Proof
end

