-- ==== Sys2Proof/Syntax.lean ====
section
/-! DEFINITION. The commands of the Caernik 9: one constructor of `Instr` per row of spec/opcode_table.json, with the
row's operands. The Moarax rows (R198 to R258) carry the fields of their instruction word; the others carry what the
outside sends (a register write, a message, an event on a link or a pin). -/
namespace Sys2Proof

/-! ## Moarax instruction words -/

/-- What every Moarax command carries: the global mould index whose work it is (R5), the guard of R200, and whether the
word had a non-zero bit in a field that its class reserves (R201). -/
structure Hdr where
  m : BitVec 8
  gneg : Bool
  gpred : BitVec 3
  rsv : Bool
  deriving DecidableEq, Repr

/-- Second operand of class 0x01 (R202): a register, or the sign-extended `IMM32`. -/
inductive AluSrc where
  | reg (rb : BitVec 5)
  | imm (v : BitVec 32)
  deriving DecidableEq, Repr

/-- Class 0x01 fields (R202). -/
structure AluOps where
  rd : BitVec 5
  ra : BitVec 5
  src : AluSrc
  deriving DecidableEq, Repr

/-- Class 0x02 fields (R202, R204). -/
structure FpOps where
  rd : BitVec 5
  ra : BitVec 5
  rb : BitVec 5
  rc : BitVec 5
  deriving DecidableEq, Repr

/-- Class 0x04 fields (R209), and `LIH` (R203): register, base register, `IMM32`. -/
structure ImmOps where
  rd : BitVec 5
  ra : BitVec 5
  imm : BitVec 32
  deriving DecidableEq, Repr

/-- Class 0x05 fields (R213). -/
structure DescOps where
  dd : BitVec 6
  da : BitVec 6
  ra : BitVec 5
  imm : BitVec 16
  deriving DecidableEq, Repr

/-- Class 0x06 fields (R215, R218); `nr` and `nc` hold the counts less 1. -/
structure MoveOps where
  dd : BitVec 6
  da : BitVec 6
  ra : BitVec 5
  rb : BitVec 5
  rm : BitVec 2
  buf : BitVec 3
  nr : BitVec 11
  nc : BitVec 7
  deriving DecidableEq, Repr

/-- Class 0x08 fields (R230); R453 says which minor opcode uses which. -/
structure ProdOps where
  dw : BitVec 6
  dout : BitVec 6
  df : BitVec 6
  ra : BitVec 5
  rb : BitVec 5
  acc : BitVec 3
  buf : BitVec 3
  add : Bool
  disp : BitVec 2
  fop : BitVec 2
  srs : Bool
  wrs : Bool
  rm : BitVec 2
  xg : BitVec 3
  deriving DecidableEq, Repr

/-- Class 0x09 fields (R241). -/
structure PatOps where
  dw : BitVec 6
  dq : BitVec 6
  ra : BitVec 5
  rb : BitVec 5
  rc : BitVec 5
  rd : BitVec 5
  slot : BitVec 3
  scope : BitVec 2
  pq : Bool
  discard : Bool
  sk : BitVec 3
  deriving DecidableEq, Repr

/-- `VRUN` fields (R244). -/
structure VrunOps where
  slot : BitVec 4
  ra : BitVec 5
  kb : BitVec 5
  sk : BitVec 3
  rm : BitVec 2
  deriving DecidableEq, Repr

/-- Class 0x0B fields (R246). -/
structure CollOps where
  ds : BitVec 6
  dd : BitVec 6
  ra : BitVec 5
  sk : BitVec 3
  deriving DecidableEq, Repr

/-- Class 0x0C fields (R250): the three descriptor columns and the two registers. -/
structure RouteOps where
  d0 : BitVec 6
  d1 : BitVec 6
  d2 : BitVec 6
  ra : BitVec 5
  rb : BitVec 5
  sk : BitVec 3
  deriving DecidableEq, Repr

/-- `RUPD` fields (R258). -/
structure RupdOps where
  dg : BitVec 6
  dw : BitVec 6
  pslot : BitVec 4
  kb : BitVec 5
  ra : BitVec 5
  sk : BitVec 3
  gsrc : Bool
  deriving DecidableEq, Repr

/-! ## Host and fabric messages -/

/-- What every host command carries (R357): session, packet sequence number, effect count `AT`, whether a reserved byte
was non-zero (R358), and the relaying device for a fabric peer's command (R360). -/
structure CmdHdr where
  sid : W32
  psn : W64
  at_ : W64
  rsv : Bool
  peer : Option W16
  deriving DecidableEq, Repr

/-- What an IEEE 1588 message on the host port is (R362), its times in ns and corrected: `Sync` with its sequence number, whether a
`Follow_Up` gives its time, and the time at which the master sent it; `Follow_Up`; `Delay_Resp` with the time at which the master
received the request. -/
inductive PtpMsg where
  | sync (seq : W16) (twoStep : Bool) (t1 : W64)
  | followUp (seq : W16) (t1 : W64)
  | delayResp (seq : W16) (t4 : W64)
  deriving DecidableEq, Repr

/-- A Goengo packet (R350): header fields with the reserved W0 [52:48] and W3 [31:0], and the protected payload with its tag (class
0 has none). -/
structure GoengoPkt where
  ver : BitVec 4
  cls : BitVec 4
  ackv : Bool
  retx : Bool
  last : Bool
  rsv0 : BitVec 5
  sid : W32
  psn : W64
  ack : W64
  sack : W32
  rsv3 : W32
  payload : List Byte
  tag : List Byte
  deriving DecidableEq, Repr

/-- What an Ethernet frame is (R349). -/
inductive FrameKind where
  | arp | neighbour | echo | goengo | pause | other
  deriving DecidableEq, Repr

/-- A received Ethernet frame: its bytes' count, its 802.1Q tags, its kind and its UDP destination port. -/
structure Frame where
  len : BitVec 16
  tags : BitVec 2
  kind : FrameKind
  port : W16
  payload : List Byte
  deriving DecidableEq, Repr

/-- Message kinds of the fabric (R318). Counts of a routing step, reports of a mismatch and launches are named in neither class and
travel as requests, error responses as read data (log entry 51). -/
inductive MsgKind where
  | request | header | exponent | window | row | counter | linkState
  | readData | align | gather | returned | ack
  deriving DecidableEq, Repr

/-- The class of a message kind (R318): true is B. -/
def MsgKind.classB : MsgKind → Bool
  | .request | .header | .exponent | .window | .row | .counter | .linkState => false
  | .readData | .align | .gather | .returned | .ack => true

/-- A fabric packet (R318): header fields, the link's sequence number and virtual channel (R319, R320), the bytes covered by the
CRC, and the CRC received. `seq` of an acknowledgement is the number that it acknowledges. -/
structure Packet where
  dest : W16
  src : W16
  kind : MsgKind
  seq : W64
  linkSeq : BitVec 12
  vc : BitVec 3
  body : List Byte
  crc : W32
  deriving DecidableEq, Repr

/-- The fields that collective headers carry (R331 step 1) and their kind (R247). -/
structure CollHeader where
  kind : BitVec 3
  members : Nat
  tid : BitVec 24
  fmt : BitVec 4
  ext : List W32
  wrs : Bool
  rm : BitVec 2
  deriving DecidableEq, Repr

/-- A block behind an isolation wrapper (R386). -/
inductive Block where
  | mould (g : BitVec 8)
  | riser (s : BitVec 3)
  | stack (s : BitVec 3)
  | port (p : BitVec 4)
  | sequencer (c : BitVec 2)
  | hostPort
  deriving DecidableEq, Repr

/-- Where an uncorrectable SRAM or flask error lies (R382, R391). -/
inductive SramPlace where
  | mould (g : BitVec 8)
  | flask (addr : BitVec 48)
  | reductionBuffer (die : Bool)
  deriving DecidableEq, Repr

/-- How a port fails under R320. -/
inductive PortFault where
  | replays | replayRate | fecLock
  deriving DecidableEq, Repr

/-- A routed row's arrival tag (R341): the token, the source device and the choice rank. -/
structure RowTag where
  token : W32
  dev : W16
  rank : BitVec 3
  deriving DecidableEq, Repr

/-! ## The commands -/

/-- A peer that holds a replica of a shard, with the descriptor by which it names the shard's tensor (R301). -/
structure ShardPeer where
  dev : W16
  da : BitVec 512
  deriving DecidableEq, Repr

/-- Round-trip time and lane skew of a link, as measured at its training (R319, R337). -/
structure LinkTimes where
  rtt : BitVec 12
  skew : BitVec 32
  deriving DecidableEq, Repr

/-- Returned credits in flits: of a virtual channel's own space, and of the shared space (R319). -/
structure Credits where
  reserved : BitVec 14
  shared : BitVec 14
  deriving DecidableEq, Repr

/-- The four timestamps of an exchange (R337): the neighbour sends, this device receives, this device sends, the neighbour
receives. -/
structure Stamps where
  t1 : W64
  t2 : W64
  t3 : W64
  t4 : W64
  deriving DecidableEq, Repr

/-- Codes of a collective's elements (R331), with the NNZ of the sender's tiles where the tensor is sparse (R333). -/
structure TileCodes where
  nnz : List W32
  codes : List W16
  deriving DecidableEq, Repr

/-- Results of a collective's elements, with the NNZ of the sender's tiles where the tensor is sparse (R333). -/
structure TileResults where
  nnz : List W32
  results : List W32
  deriving DecidableEq, Repr

/-- The 240 rows of spec/opcode_table.json, in its order. -/
inductive Instr where
  -- scalar integer (R203)
  | add (h : Hdr) (o : AluOps)
  | sub (h : Hdr) (o : AluOps)
  | and_ (h : Hdr) (o : AluOps)
  | or_ (h : Hdr) (o : AluOps)
  | xor_ (h : Hdr) (o : AluOps)
  | shl (h : Hdr) (o : AluOps)
  | shr (h : Hdr) (o : AluOps)
  | sra (h : Hdr) (o : AluOps)
  | mul (h : Hdr) (o : AluOps)
  | mulhu (h : Hdr) (o : AluOps)
  | mulh (h : Hdr) (o : AluOps)
  | divu (h : Hdr) (o : AluOps)
  | div (h : Hdr) (o : AluOps)
  | remu (h : Hdr) (o : AluOps)
  | rem (h : Hdr) (o : AluOps)
  | min (h : Hdr) (o : AluOps)
  | max (h : Hdr) (o : AluOps)
  | minu (h : Hdr) (o : AluOps)
  | maxu (h : Hdr) (o : AluOps)
  | lih (h : Hdr) (o : ImmOps)
  -- scalar binary32 (R204)
  | fadd (h : Hdr) (o : FpOps)
  | fsub (h : Hdr) (o : FpOps)
  | fmul (h : Hdr) (o : FpOps)
  | fma (h : Hdr) (o : FpOps)
  | fmin (h : Hdr) (o : FpOps)
  | fmax (h : Hdr) (o : FpOps)
  | fabs (h : Hdr) (o : FpOps)
  | fneg (h : Hdr) (o : FpOps)
  | ftoi (h : Hdr) (o : FpOps)
  | itof (h : Hdr) (o : FpOps)
  -- predicates, branches, summaries (R207, R208)
  | pset (h : Hdr) (pd : BitVec 3) (ra rb : BitVec 5) (cond : BitVec 4)
  | pseti (h : Hdr) (pd : BitVec 3) (ra : BitVec 5) (cond : BitVec 4) (imm : BitVec 32)
  | plog (h : Hdr) (pd pa pb : BitVec 3) (tt : BitVec 4)
  | br (h : Hdr) (target : BitVec 13)
  | jal (h : Hdr) (rd : BitVec 5) (target : BitVec 13)
  | jr (h : Hdr) (ra : BitVec 5)
  | bsum (h : Hdr) (sk : BitVec 3) (cond : BitVec 4) (ra : BitVec 5) (target : BitVec 13)
  | sget (h : Hdr) (rd : BitVec 5) (sk : BitVec 3)
  -- data memory and register space (R209, R210)
  | ldb (h : Hdr) (o : ImmOps)
  | ldbu (h : Hdr) (o : ImmOps)
  | ldh (h : Hdr) (o : ImmOps)
  | ldhu (h : Hdr) (o : ImmOps)
  | ldw (h : Hdr) (o : ImmOps)
  | ldwu (h : Hdr) (o : ImmOps)
  | ldd (h : Hdr) (o : ImmOps)
  | stb (h : Hdr) (o : ImmOps)
  | sth (h : Hdr) (o : ImmOps)
  | stw (h : Hdr) (o : ImmOps)
  | std (h : Hdr) (o : ImmOps)
  | mrld (h : Hdr) (o : ImmOps)
  | mrst (h : Hdr) (o : ImmOps)
  | ldoc (h : Hdr) (o : ImmOps)
  -- descriptors (R213)
  | dmk (h : Hdr) (o : DescOps)
  | dsave (h : Hdr) (o : DescOps)
  | dcopy (h : Hdr) (o : DescOps)
  | doff (h : Hdr) (o : DescOps)
  | dext (h : Hdr) (o : DescOps)
  | dtid (h : Hdr) (o : DescOps)
  -- moves and staging (R216 to R218)
  | move (h : Hdr) (o : MoveOps)
  | mfill (h : Hdr) (o : MoveOps)
  | tbload (h : Hdr) (o : MoveOps)
  -- synchronisation and heats (R220 to R224)
  | qsig (h : Hdr) (q : BitVec 3) (tk : BitVec 4)
  | tokenSignal (m : BitVec 8) (tk : BitVec 4)
  | qwait (h : Hdr) (q : BitVec 3) (tk : BitVec 4)
  | qwaitRelease (m : BitVec 8) (q : BitVec 3)
  | fence (h : Hdr) (qmask : BitVec 6)
  | fenceRelease (m : BitVec 8)
  | barrier (h : Hdr) (bid : BitVec 4) (device : Bool) (ra : BitVec 5)
  | barrierRelease (device : Bool) (c : BitVec 2) (bid : BitVec 4)
  | hwait (h : Hdr) (rd : BitVec 5)
  | hend (h : Hdr)
  | cnt (h : Hdr) (rd : BitVec 5)
  -- checks (R226 to R228)
  | digest (h : Hdr) (da : BitVec 6) (ra : BitVec 5) (rec : Bool) (label : BitVec 16)
  | chkst (h : Hdr) (rd : BitVec 5)
  | chkinj (h : Hdr) (sel : BitVec 2)
  | reservedOpcode (h : Hdr)
  | queueRoom (m : BitVec 8)
  | summaryPost (m : BitVec 8) (sk : BitVec 3)
  | lockstepMismatch (m : BitVec 8)
  -- products and accumulators (R230 to R240)
  | spmm (h : Hdr) (o : ProdOps)
  | spmmt (h : Hdr) (o : ProdOps)
  | spout (h : Hdr) (o : ProdOps)
  | sprobe (h : Hdr) (o : ProdOps)
  | dmm (h : Hdr) (o : ProdOps)
  | accwr (h : Hdr) (o : ProdOps)
  | accld (h : Hdr) (o : ProdOps)
  | overflowRecompute (m : BitVec 8)
  | checkMismatch (m : BitVec 8) (sel : BitVec 2) (again : Bool)
  | ftqPush (m : BitVec 8)
  | ftqControlFault (m : BitVec 8)
  | vecCfgWrite (m : BitVec 8) (v : W64)
  | ftqEnableEffect (m : BitVec 8)
  | mengCfgWrite (m : BitVec 8) (v : W64)
  -- patterns (R241)
  | prune (h : Hdr) (o : PatOps)
  | grow (h : Hdr) (o : PatOps)
  | compact (h : Hdr) (o : PatOps)
  | compactResume (m : BitVec 8)
  -- vector engine (R243, R244)
  | epload (h : Hdr) (slot : BitVec 4) (ra : BitVec 5)
  | vrun (h : Hdr) (o : VrunOps)
  -- collectives (R247)
  | rscat (h : Hdr) (o : CollOps)
  | agath (h : Hdr) (o : CollOps)
  | ared (h : Hdr) (o : CollOps)
  | a2a (h : Hdr) (o : CollOps)
  | rnorm (h : Hdr) (o : CollOps)
  -- routing (R250)
  | rsel (h : Hdr) (o : RouteOps)
  | dispatch (h : Hdr) (o : RouteOps)
  | return_ (h : Hdr) (o : RouteOps)
  | combine (h : Hdr) (o : RouteOps)
  | gather (h : Hdr) (o : RouteOps)
  | scatter (h : Hdr) (o : RouteOps)
  | tskip (h : Hdr) (o : RouteOps)
  -- riser commands and events (R258, R297, R301, R303)
  | rupd (h : Hdr) (o : RupdOps)
  | rprog (h : Hdr) (pslot : BitVec 4) (ra : BitVec 5) (rsr : BitVec 3)
  | rfetch (h : Hdr) (dd da : BitVec 6) (sk : BitVec 3)
  | raudit (h : Hdr) (dw : BitVec 6) (sk : BitVec 3)
  | fetchServe (s : BitVec 3) (tid : BitVec 24) (chunk : W32) (peer : ShardPeer)
  | mismatchReport (s : BitVec 3) (tid : BitVec 24) (chunk : W32) (peer : ShardPeer)
  | riserResume (s : BitVec 3)
  | riserCheckMismatch (s : BitVec 3) (again : Bool)
  -- memory system (R267 to R281, R310, R382)
  | regionAllocate (n : BitVec 6) (v : W64)
  | regionFree (n : BitVec 6) (v : W64)
  | regionHintChange (n : BitVec 6) (v : W64)
  | regionDrainComplete (n : BitVec 6)
  | flaskSplitRequest (c : BitVec 2) (v : W64)
  | flaskSplitApply (c : BitVec 2)
  | thermalSample (temps : BitVec 192)
  | scrub
  | streamRingConfig (limit : Bool) (v : W64)
  | streamTailWrite (v : W64)
  -- fabric (R313 to R337)
  | portEnable (p : BitVec 4)
  | portDrain (p : BitVec 4)
  | portDrainComplete (p : BitVec 4)
  | portTrainingComplete (p : BitVec 4) (peerDev : W16) (peerPort : BitVec 4) (times : LinkTimes)
  | portTrainingTimeout (p : BitVec 4)
  | portRetryTimer (p : BitVec 4)
  | packetArrival (p : BitVec 4) (pkt : Packet)
  | linkNak (p : BitVec 4) (seq : BitVec 12)
  | creditReturn (p : BitVec 4) (vc : BitVec 3) (flits : Credits) (ack : BitVec 12)
  | portFailure (p : BitVec 4) (why : PortFault)
  | e2eResend (dest : W16) (seq : W64)
  | linkStateMessage (src : W16) (num : W64) (links : List (Nat × Bool))
  | destinationUnreachable (dev : W16)
  | remoteReadRequest (src : W16) (region : BitVec 6) (addr : BitVec 48) (len : BitVec 10)
  | timeExchange (p : BitVec 4) (depth : BitVec 5) (master : W16) (hasMaster : Bool) (stamps : Stamps)
  | noMasterTimeout
  -- collectives between devices (R330 to R335)
  | collectiveSlotGrant (grp : Byte) (cseq : W32)
  | collectiveHeader (grp : Byte) (cseq : W32) (rank : Nat) (hd : CollHeader)
  | exponentCode (grp : Byte) (cseq : W32) (rank : Nat) (codes : TileCodes)
  | alignmentCode (grp : Byte) (cseq : W32) (owner : Nat) (codes : TileCodes)
  | partialWindow (grp : Byte) (cseq : W32) (rank : Nat) (windows : List (BitVec 96))
  | resultGather (grp : Byte) (cseq : W32) (rank : Nat) (results : TileResults)
  | exportArrival (m : BitVec 8)
  | collectiveTimeout (grp : Byte) (cseq : W32)
  -- expert routing between devices (R340 to R344)
  | dispatchCount (rseq : W32) (dev : W16) (base : W32) (counts : List W32)
  | dispatchRow (rseq : W32) (expert : BitVec 7) (slot : W32) (tag : RowTag) (codes : List Byte) (scales : List Byte)
  | returnRow (rseq : W32) (token : W32) (rank : BitVec 3) (codes : List Byte)
  -- host port (R349 to R356)
  | ethernetFrame (f : Frame)
  | goengoPacket (p : GoengoPkt)
  | hostRetransmit (sid : W32) (cls : BitVec 4)
  | hello (x25519 mlkem nonce ed25519 mldsa : List Byte)
  | finish (sid : W32) (sigEd sigMl : List Byte)
  | sessionIdleTimeout (sid : W32)
  -- host commands (R357, R358)
  | rdreg (c : CmdHdr) (off : W32)
  | wrreg (c : CmdHdr) (off : W32) (v : W64)
  | rdmem (c : CmdHdr) (addr : BitVec 48) (len : W32)
  | leaseAcquire (c : CmdHdr) (dur : W32)
  | leaseRenew (c : CmdHdr) (dur : W32)
  | leaseRelease (c : CmdHdr)
  | leaseExpiry
  | seed (c : CmdHdr) (seed : W64) (key : BitVec 128) (base : BitVec 48)
  | launch (c : CmdHdr) (heat : BitVec 48) (flags : W16)
  | htail (c : CmdHdr) (off : W64)
  | itail (c : CmdHdr) (v : W64)
  | sscredit (c : CmdHdr) (credit : W64)
  | mode (c : CmdHdr) (bit : Byte) (value : Byte)
  | resetWarm (c : CmdHdr)
  | resetIdleBank (c : CmdHdr)
  | resetStagedBoot (c : CmdHdr)
  | dataIn (c : CmdHdr) (addr : BitVec 48) (data : List Byte)
  | bootDataIn (c : CmdHdr) (off : W32) (data : List Byte)
  | commandAtEffect
  | ptpMessage (m : PtpMsg) (domain : Byte)
  -- heats and faults (R365, R366, R383 to R403)
  | heatLaunch
  | heatComplete
  | heatOverdue
  | handshakeStall (b : Block)
  | secdedUncorrectable (p : SramPlace)
  | hbmEccUncorrectable (addr : BitVec 48)
  | guestSwitch (target : BitVec 8)
  | hostRemap (v : W64)
  | sequencerMismatch (c : BitVec 2)
  | mpLockstepMismatch (late : Bool)
  | hostLinkLoss (relay : Option W16)
  -- live service (R395 to R398)
  | mouldDisable (g : BitVec 8)
  | mouldEnable (g : BitVec 8)
  | mouldLoad (g : BitVec 8) (v : W64)
  | stackDisable (s : BitVec 3)
  | stackEnable (s : BitVec 3)
  | stackTrainingComplete (s : BitVec 3) (ok : Bool)
  | ingotActivate (blk : BitVec 4)
  | ingotWrite (v : W64)
  | ingotWriteDone
  | keySeal (slot : BitVec 2)
  | keyRevoke (slot : BitVec 2)
  | svnCommit (v : W64)
  | optionBytesWrite (v : W64)
  | registerWrite (off : W32) (v : W64)
  -- power and reset (R406 to R422)
  | inputUndervoltage (vin : W16)
  | inputReversed
  | inputOvervoltage (vin : W16)
  | inputReconnect (vin : W16)
  | quenchArm (vnode : W16)
  | quench (vnode : W16)
  | heldExit (vnode : W16)
  | coldPowerUp (ceff : W16) (vin : W16) (vnode : W16)
  | rstNAssert (ns : W32)
  | rstNRelease
  | watchdogTimeout
  | moduleInsert
  | ejectNAssert
  | ejectNRelease
  | matedNRelease
  -- management bus (R441, R442)
  | status
  | temps
  | capacity
  | boot
  | alertCause
  | alertResponse
  | identPtr (v : W16)
  | identRead
  -- clocks, links and completions
  | systemCounterTick
  | hostLinkUp
  | ptpGrandmasterLoss
  | thermalTripRelease (temps : BitVec 192)
  | mouldLoadComplete (g : BitVec 8)
  | ingotActivationComplete
  | optionBytesProgrammed
  | refclkDetect
  | smbusWriteIgnored (code : Byte) (v : W16)
  | inputRangeAlert (vin : W16)
  deriving DecidableEq, Repr

end Sys2Proof
end

