-- ==== Sys2Proof/Decode.lean ====
section
/-! DEFINITION. The words of the Moarax instruction set (R198 to R258, R453): the decoder that a pair applies to a word of
its instruction memory, total on any word, and the encoder of the same tables. The commands of the module have no bits of
their own in spec/opcode_table.json, so no table word spells one. -/
namespace Sys2Proof

/-- `n` bits of a word from bit `lo` on. -/
def wordField (w : W64) (lo n : Nat) : BitVec n := w.extractLsb' lo n

/-- One bit of a word. -/
def wordBit (w : W64) (i : Nat) : Bool := wordField w i 1 == 1

/-- A field's bits in their place. -/
def putField {n : Nat} (lo : Nat) (x : BitVec n) : W64 := x.setWidth 64 <<< lo

/-- One bit in its place. -/
def putBit (lo : Nat) (b : Bool) : W64 := putField lo (BitVec.ofBool b)

/-- Bits [hi:lo] of a word are not all zero. -/
def anyBits (w : W64) (hi lo : Nat) : Bool := wordField w lo (hi + 1 - lo) != 0

/-- Guard of a word (R198, R200), the mould whose word it is, and whether a reserved field is not zero (R201). -/
def wordHdr (m : BitVec 8) (w : W64) (rsv : Bool) : Hdr := ⟨m, wordBit w 51, wordField w 48 3, rsv⟩

/-! ## Decoding -/

/-- Operation m of class 0x01, `LIH` apart (R203). -/
def aluCtor (n : Nat) : Option (Hdr → AluOps → Instr) :=
  match n with
  | 0x00 => some .add
  | 0x01 => some .sub
  | 0x02 => some .and_
  | 0x03 => some .or_
  | 0x04 => some .xor_
  | 0x05 => some .shl
  | 0x06 => some .shr
  | 0x07 => some .sra
  | 0x08 => some .mul
  | 0x09 => some .mulhu
  | 0x0A => some .mulh
  | 0x0B => some .divu
  | 0x0C => some .div
  | 0x0D => some .remu
  | 0x0E => some .rem
  | 0x10 => some .min
  | 0x11 => some .max
  | 0x12 => some .minu
  | 0x13 => some .maxu
  | _ => none

/-- `MIN` of class 0x02 (R204). -/
def fpCtor (n : Nat) : Option (Hdr → FpOps → Instr) :=
  match n with
  | 0x00 => some .fadd
  | 0x01 => some .fsub
  | 0x02 => some .fmul
  | 0x03 => some .fma
  | 0x04 => some .fmin
  | 0x05 => some .fmax
  | 0x06 => some .fabs
  | 0x07 => some .fneg
  | 0x08 => some .ftoi
  | 0x09 => some .itof
  | _ => none

/-- `MIN` of class 0x04 (R209). -/
def memCtor (n : Nat) : Option (Hdr → ImmOps → Instr) :=
  match n with
  | 0x00 => some .ldb
  | 0x01 => some .ldbu
  | 0x02 => some .ldh
  | 0x03 => some .ldhu
  | 0x04 => some .ldw
  | 0x05 => some .ldwu
  | 0x06 => some .ldd
  | 0x08 => some .stb
  | 0x09 => some .sth
  | 0x0A => some .stw
  | 0x0B => some .std
  | 0x10 => some .mrld
  | 0x11 => some .mrst
  | 0x12 => some .ldoc
  | _ => none

/-- `MIN` of class 0x05 (R213). -/
def descCtor (n : Nat) : Option (Hdr → DescOps → Instr) :=
  match n with
  | 0x00 => some .dmk
  | 0x01 => some .dsave
  | 0x02 => some .dcopy
  | 0x03 => some .doff
  | 0x04 => some .dext
  | 0x05 => some .dtid
  | _ => none

/-- `MIN` of class 0x08 (R231, R237, R259). -/
def prodCtor (n : Nat) : Option (Hdr → ProdOps → Instr) :=
  match n with
  | 0x00 => some .spmm
  | 0x01 => some .spmmt
  | 0x02 => some .spout
  | 0x03 => some .sprobe
  | 0x04 => some .dmm
  | 0x08 => some .accwr
  | 0x09 => some .accld
  | _ => none

/-- `MIN` of class 0x0B (R247). -/
def collCtor (n : Nat) : Option (Hdr → CollOps → Instr) :=
  match n with
  | 0x00 => some .rscat
  | 0x01 => some .agath
  | 0x02 => some .ared
  | 0x03 => some .a2a
  | 0x04 => some .rnorm
  | _ => none

/-- Layouts R and I (R202). -/
def decodeR (w : W64) : FpOps := ⟨wordField w 43 5, wordField w 38 5, wordField w 33 5, wordField w 28 5⟩
def decodeI (w : W64) : ImmOps := ⟨wordField w 43 5, wordField w 38 5, wordField w 0 32⟩

/-- Class 0x01 (R202, R203): the R layout below `MIN` 0x20, the I layout from there on. -/
def decodeAlu (m : BitVec 8) (w : W64) (n : Nat) : Instr :=
  if n = 0x3F then .lih (wordHdr m w (anyBits w 37 32)) (decodeI w)
  else if n < 0x20 then
    match aluCtor n with
    | some c => c (wordHdr m w (anyBits w 27 0)) ⟨wordField w 43 5, wordField w 38 5, .reg (wordField w 33 5)⟩
    | none => .reservedOpcode (wordHdr m w false)
  else
    match aluCtor (n - 0x20) with
    | some c => c (wordHdr m w (anyBits w 37 32)) ⟨wordField w 43 5, wordField w 38 5, .imm (wordField w 0 32)⟩
    | none => .reservedOpcode (wordHdr m w false)

/-- Class 0x03 (R205, R207, R208). -/
def decodeBranch (m : BitVec 8) (w : W64) (n : Nat) : Instr :=
  match n with
  | 0x00 => .br (wordHdr m w (anyBits w 47 13)) (wordField w 0 13)
  | 0x01 => .jal (wordHdr m w (anyBits w 42 13)) (wordField w 43 5) (wordField w 0 13)
  | 0x02 => .jr (wordHdr m w (anyBits w 47 43 || anyBits w 37 0)) (wordField w 38 5)
  | 0x03 => .bsum (wordHdr m w (anyBits w 47 43 || anyBits w 30 13)) (wordField w 35 3) (wordField w 31 4) (wordField w 38 5)
      (wordField w 0 13)
  | 0x08 => .pset (wordHdr m w (anyBits w 30 0)) (wordField w 45 3) (wordField w 40 5) (wordField w 35 5) (wordField w 31 4)
  | 0x09 => .pseti (wordHdr m w (anyBits w 35 32)) (wordField w 45 3) (wordField w 40 5) (wordField w 36 4) (wordField w 0 32)
  | 0x0A => .plog (wordHdr m w (anyBits w 34 0)) (wordField w 45 3) (wordField w 42 3) (wordField w 39 3) (wordField w 35 4)
  | 0x10 => .sget (wordHdr m w (anyBits w 42 38 || anyBits w 34 0)) (wordField w 43 5) (wordField w 35 3)
  | _ => .reservedOpcode (wordHdr m w false)

/-- Class 0x06 (R215 to R218): `BUF` and [20:0] belong to `TBLOAD`, with [9:7] reserved there too. -/
def decodeMove (m : BitVec 8) (w : W64) (n : Nat) : Instr :=
  let o : MoveOps := ⟨wordField w 42 6, wordField w 36 6, wordField w 31 5, wordField w 26 5, wordField w 24 2, 0, 0, 0⟩
  match n with
  | 0x00 => .move (wordHdr m w (anyBits w 23 0)) o
  | 0x01 => .tbload (wordHdr m w (anyBits w 9 7)) { o with buf := wordField w 21 3, nr := wordField w 10 11, nc := wordField w 0 7 }
  | 0x02 => .mfill (wordHdr m w (anyBits w 23 0)) o
  | _ => .reservedOpcode (wordHdr m w false)

/-- Fields of class 0x08 (R230); those that R453 reserves are found when the instruction issues. -/
def decodeProd (w : W64) : ProdOps :=
  { dw := wordField w 42 6, dout := wordField w 36 6, df := wordField w 30 6, ra := wordField w 25 5, rb := wordField w 20 5,
    acc := wordField w 17 3, buf := wordField w 14 3, add := wordBit w 13, disp := wordField w 11 2, fop := wordField w 9 2,
    srs := wordBit w 8, wrs := wordBit w 7, rm := wordField w 5 2, xg := wordField w 2 3 }

/-- Class 0x09 (R241): a field reserved for the minor opcode reads as zero. -/
def decodePattern (m : BitVec 8) (w : W64) (n : Nat) : Instr :=
  let o : PatOps :=
    { dw := wordField w 42 6, dq := wordField w 36 6, ra := wordField w 31 5, rb := wordField w 26 5, rc := wordField w 21 5,
      rd := wordField w 16 5, slot := wordField w 13 3, scope := wordField w 11 2, pq := wordBit w 10, discard := wordBit w 9,
      sk := wordField w 6 3 }
  match n with
  | 0x00 => .prune (wordHdr m w (anyBits w 25 16 || anyBits w 10 9 || anyBits w 5 0))
      { o with rc := 0, rd := 0, pq := false, discard := false }
  | 0x01 => .grow (wordHdr m w (anyBits w 9 9 || anyBits w 5 0)) { o with discard := false }
  | 0x02 => .compact (wordHdr m w (anyBits w 41 36 || anyBits w 25 16 || anyBits w 12 10 || anyBits w 5 0))
      { o with dq := 0, rc := 0, rd := 0, scope := 0, pq := false }
  | _ => .reservedOpcode (wordHdr m w false)

/-- Class 0x0A (R243, R244). -/
def decodeVector (m : BitVec 8) (w : W64) (n : Nat) : Instr :=
  match n with
  | 0x00 => .epload (wordHdr m w (anyBits w 38 0)) (wordField w 44 4) (wordField w 39 5)
  | 0x01 => .vrun (wordHdr m w (anyBits w 28 0))
      ⟨wordField w 44 4, wordField w 39 5, wordField w 34 5, wordField w 31 3, wordField w 29 2⟩
  | _ => .reservedOpcode (wordHdr m w false)

/-- Class 0x0C (R250): bits not used by a minor opcode are reserved. -/
def decodeRoute (m : BitVec 8) (w : W64) (n : Nat) : Instr :=
  let o : RouteOps := ⟨wordField w 42 6, wordField w 36 6, wordField w 30 6, wordField w 25 5, wordField w 20 5, wordField w 6 3⟩
  let low := anyBits w 19 9 || anyBits w 5 0
  match n with
  | 0x00 => .rsel (wordHdr m w (anyBits w 24 20 || low)) { o with rb := 0 }
  | 0x01 => .dispatch (wordHdr m w (anyBits w 35 30 || low)) { o with d2 := 0 }
  | 0x02 => .return_ (wordHdr m w (anyBits w 35 30 || anyBits w 24 0)) { o with d2 := 0, rb := 0, sk := 0 }
  | 0x03 => .combine (wordHdr m w (anyBits w 35 30 || anyBits w 19 0)) { o with d2 := 0, sk := 0 }
  | 0x04 => .gather (wordHdr m w (anyBits w 29 0)) { o with ra := 0, rb := 0, sk := 0 }
  | 0x05 => .scatter (wordHdr m w (anyBits w 29 0)) { o with ra := 0, rb := 0, sk := 0 }
  | 0x06 => .tskip (wordHdr m w (anyBits w 35 20 || low)) { o with d2 := 0, ra := 0, rb := 0 }
  | _ => .reservedOpcode (wordHdr m w false)

/-- Class 0x0D (R258). -/
def decodeRiser (m : BitVec 8) (w : W64) (n : Nat) : Instr :=
  match n with
  | 0x00 => .rupd (wordHdr m w (anyBits w 17 0))
      ⟨wordField w 42 6, wordField w 36 6, wordField w 32 4, wordField w 27 5, wordField w 22 5, wordField w 19 3, wordBit w 18⟩
  | 0x01 => .rprog (wordHdr m w (anyBits w 35 0)) (wordField w 44 4) (wordField w 39 5) (wordField w 36 3)
  | 0x02 => .rfetch (wordHdr m w (anyBits w 35 9 || anyBits w 5 0)) (wordField w 42 6) (wordField w 36 6) (wordField w 6 3)
  | 0x03 => .raudit (wordHdr m w (anyBits w 47 42 || anyBits w 35 9 || anyBits w 5 0)) (wordField w 36 6) (wordField w 6 3)
  | _ => .reservedOpcode (wordHdr m w false)

/-- Class 0x10 (R219 to R224). -/
def decodeSync (m : BitVec 8) (w : W64) (n : Nat) : Instr :=
  match n with
  | 0x00 => .qsig (wordHdr m w (anyBits w 40 0)) (wordField w 45 3) (wordField w 41 4)
  | 0x01 => .qwait (wordHdr m w (anyBits w 40 0)) (wordField w 45 3) (wordField w 41 4)
  | 0x02 => .fence (wordHdr m w (anyBits w 47 6)) (wordField w 0 6)
  | 0x03 => .barrier (wordHdr m w (anyBits w 47 43 || anyBits w 37 5)) (wordField w 0 4) (wordBit w 4) (wordField w 38 5)
  | 0x08 => .hwait (wordHdr m w (anyBits w 42 0)) (wordField w 43 5)
  | 0x09 => .hend (wordHdr m w (anyBits w 47 0))
  | 0x0A => .cnt (wordHdr m w (anyBits w 42 0)) (wordField w 43 5)
  | _ => .reservedOpcode (wordHdr m w false)

/-- Class 0x11 (R226 to R228). -/
def decodeCheck (m : BitVec 8) (w : W64) (n : Nat) : Instr :=
  match n with
  | 0x00 => .digest (wordHdr m w (anyBits w 47 42 || anyBits w 30 17)) (wordField w 36 6) (wordField w 31 5) (wordBit w 16)
      (wordField w 0 16)
  | 0x01 => .chkst (wordHdr m w (anyBits w 42 0)) (wordField w 43 5)
  | 0x02 => .chkinj (wordHdr m w (anyBits w 47 2)) (wordField w 0 2)
  | _ => .reservedOpcode (wordHdr m w false)

/-- A layout with one constructor table. -/
def decodeBy {α : Type} (c : Option (Hdr → α → Instr)) (h : Hdr) (o : α) : Instr :=
  match c with
  | some f => f h o
  | none => .reservedOpcode { h with rsv := false }

/-- The instruction that mould m finds in a word (R198 to R201): reserved values of `MAJ` and `MIN` by name. -/
def decodeMoarax (m : BitVec 8) (w : W64) : Instr :=
  let n := (wordField w 52 6).toNat
  match (wordField w 58 6).toNat with
  | 0x01 => decodeAlu m w n
  | 0x02 => decodeBy (fpCtor n) (wordHdr m w (anyBits w 27 0)) (decodeR w)
  | 0x03 => decodeBranch m w n
  | 0x04 => decodeBy (memCtor n) (wordHdr m w (anyBits w 37 32)) (decodeI w)
  | 0x05 => decodeBy (descCtor n) (wordHdr m w (anyBits w 30 16))
      ⟨wordField w 42 6, wordField w 36 6, wordField w 31 5, wordField w 0 16⟩
  | 0x06 => decodeMove m w n
  | 0x08 => decodeBy (prodCtor n) (wordHdr m w (anyBits w 1 0)) (decodeProd w)
  | 0x09 => decodePattern m w n
  | 0x0A => decodeVector m w n
  | 0x0B => decodeBy (collCtor n) (wordHdr m w (anyBits w 30 9 || anyBits w 5 0))
      ⟨wordField w 42 6, wordField w 36 6, wordField w 31 5, wordField w 6 3⟩
  | 0x0C => decodeRoute m w n
  | 0x0D => decodeRiser m w n
  | 0x10 => decodeSync m w n
  | 0x11 => decodeCheck m w n
  | _ => .reservedOpcode (wordHdr m w false)

/-! ## Encoding -/

/-- The head of a word: `MAJ`, `MIN`, and the guard (R198). -/
def encHead (h : Hdr) (maj mn : Nat) : W64 :=
  putField 58 (BitVec.ofNat 6 maj) ||| putField 52 (BitVec.ofNat 6 mn) ||| putBit 51 h.gneg ||| putField 48 h.gpred

def encAlu (h : Hdr) (mn : Nat) (o : AluOps) : W64 :=
  match o.src with
  | .reg rb => encHead h 1 mn ||| putField 43 o.rd ||| putField 38 o.ra ||| putField 33 rb
  | .imm v => encHead h 1 (mn + 0x20) ||| putField 43 o.rd ||| putField 38 o.ra ||| putField 0 v

def encR (h : Hdr) (mn : Nat) (o : FpOps) : W64 :=
  encHead h 2 mn ||| putField 43 o.rd ||| putField 38 o.ra ||| putField 33 o.rb ||| putField 28 o.rc

def encI (h : Hdr) (maj mn : Nat) (o : ImmOps) : W64 :=
  encHead h maj mn ||| putField 43 o.rd ||| putField 38 o.ra ||| putField 0 o.imm

def encDesc (h : Hdr) (mn : Nat) (o : DescOps) : W64 :=
  encHead h 5 mn ||| putField 42 o.dd ||| putField 36 o.da ||| putField 31 o.ra ||| putField 0 o.imm

def encMove (h : Hdr) (mn : Nat) (o : MoveOps) : W64 :=
  encHead h 6 mn ||| putField 42 o.dd ||| putField 36 o.da ||| putField 31 o.ra ||| putField 26 o.rb ||| putField 24 o.rm
    ||| putField 21 o.buf ||| putField 10 o.nr ||| putField 0 o.nc

def encProd (h : Hdr) (mn : Nat) (o : ProdOps) : W64 :=
  encHead h 8 mn ||| putField 42 o.dw ||| putField 36 o.dout ||| putField 30 o.df ||| putField 25 o.ra ||| putField 20 o.rb
    ||| putField 17 o.acc ||| putField 14 o.buf ||| putBit 13 o.add ||| putField 11 o.disp ||| putField 9 o.fop
    ||| putBit 8 o.srs ||| putBit 7 o.wrs ||| putField 5 o.rm ||| putField 2 o.xg

def encPattern (h : Hdr) (mn : Nat) (o : PatOps) : W64 :=
  encHead h 9 mn ||| putField 42 o.dw ||| putField 36 o.dq ||| putField 31 o.ra ||| putField 26 o.rb ||| putField 21 o.rc
    ||| putField 16 o.rd ||| putField 13 o.slot ||| putField 11 o.scope ||| putBit 10 o.pq ||| putBit 9 o.discard
    ||| putField 6 o.sk

def encColl (h : Hdr) (mn : Nat) (o : CollOps) : W64 :=
  encHead h 0xB mn ||| putField 42 o.ds ||| putField 36 o.dd ||| putField 31 o.ra ||| putField 6 o.sk

def encRoute (h : Hdr) (mn : Nat) (o : RouteOps) : W64 :=
  encHead h 0xC mn ||| putField 42 o.d0 ||| putField 36 o.d1 ||| putField 30 o.d2 ||| putField 25 o.ra ||| putField 20 o.rb
    ||| putField 6 o.sk

/-- The word of a Moarax instruction with no reserved field set; none for every other command. -/
def encodeMoarax (i : Instr) : Option W64 :=
  match i with
  | .add h o => some (encAlu h 0x00 o)
  | .sub h o => some (encAlu h 0x01 o)
  | .and_ h o => some (encAlu h 0x02 o)
  | .or_ h o => some (encAlu h 0x03 o)
  | .xor_ h o => some (encAlu h 0x04 o)
  | .shl h o => some (encAlu h 0x05 o)
  | .shr h o => some (encAlu h 0x06 o)
  | .sra h o => some (encAlu h 0x07 o)
  | .mul h o => some (encAlu h 0x08 o)
  | .mulhu h o => some (encAlu h 0x09 o)
  | .mulh h o => some (encAlu h 0x0A o)
  | .divu h o => some (encAlu h 0x0B o)
  | .div h o => some (encAlu h 0x0C o)
  | .remu h o => some (encAlu h 0x0D o)
  | .rem h o => some (encAlu h 0x0E o)
  | .min h o => some (encAlu h 0x10 o)
  | .max h o => some (encAlu h 0x11 o)
  | .minu h o => some (encAlu h 0x12 o)
  | .maxu h o => some (encAlu h 0x13 o)
  | .lih h o => some (encI h 1 0x3F o)
  | .fadd h o => some (encR h 0x00 o)
  | .fsub h o => some (encR h 0x01 o)
  | .fmul h o => some (encR h 0x02 o)
  | .fma h o => some (encR h 0x03 o)
  | .fmin h o => some (encR h 0x04 o)
  | .fmax h o => some (encR h 0x05 o)
  | .fabs h o => some (encR h 0x06 o)
  | .fneg h o => some (encR h 0x07 o)
  | .ftoi h o => some (encR h 0x08 o)
  | .itof h o => some (encR h 0x09 o)
  | .pset h pd ra rb c =>
    some (encHead h 3 0x08 ||| putField 45 pd ||| putField 40 ra ||| putField 35 rb ||| putField 31 c)
  | .pseti h pd ra c v =>
    some (encHead h 3 0x09 ||| putField 45 pd ||| putField 40 ra ||| putField 36 c ||| putField 0 v)
  | .plog h pd pa pb tt =>
    some (encHead h 3 0x0A ||| putField 45 pd ||| putField 42 pa ||| putField 39 pb ||| putField 35 tt)
  | .br h t => some (encHead h 3 0x00 ||| putField 0 t)
  | .jal h rd t => some (encHead h 3 0x01 ||| putField 43 rd ||| putField 0 t)
  | .jr h ra => some (encHead h 3 0x02 ||| putField 38 ra)
  | .bsum h k c ra t =>
    some (encHead h 3 0x03 ||| putField 38 ra ||| putField 35 k ||| putField 31 c ||| putField 0 t)
  | .sget h rd k => some (encHead h 3 0x10 ||| putField 43 rd ||| putField 35 k)
  | .ldb h o => some (encI h 4 0x00 o)
  | .ldbu h o => some (encI h 4 0x01 o)
  | .ldh h o => some (encI h 4 0x02 o)
  | .ldhu h o => some (encI h 4 0x03 o)
  | .ldw h o => some (encI h 4 0x04 o)
  | .ldwu h o => some (encI h 4 0x05 o)
  | .ldd h o => some (encI h 4 0x06 o)
  | .stb h o => some (encI h 4 0x08 o)
  | .sth h o => some (encI h 4 0x09 o)
  | .stw h o => some (encI h 4 0x0A o)
  | .std h o => some (encI h 4 0x0B o)
  | .mrld h o => some (encI h 4 0x10 o)
  | .mrst h o => some (encI h 4 0x11 o)
  | .ldoc h o => some (encI h 4 0x12 o)
  | .dmk h o => some (encDesc h 0x00 o)
  | .dsave h o => some (encDesc h 0x01 o)
  | .dcopy h o => some (encDesc h 0x02 o)
  | .doff h o => some (encDesc h 0x03 o)
  | .dext h o => some (encDesc h 0x04 o)
  | .dtid h o => some (encDesc h 0x05 o)
  | .move h o => some (encMove h 0x00 o)
  | .tbload h o => some (encMove h 0x01 o)
  | .mfill h o => some (encMove h 0x02 o)
  | .spmm h o => some (encProd h 0x00 o)
  | .spmmt h o => some (encProd h 0x01 o)
  | .spout h o => some (encProd h 0x02 o)
  | .sprobe h o => some (encProd h 0x03 o)
  | .dmm h o => some (encProd h 0x04 o)
  | .accwr h o => some (encProd h 0x08 o)
  | .accld h o => some (encProd h 0x09 o)
  | .prune h o => some (encPattern h 0x00 o)
  | .grow h o => some (encPattern h 0x01 o)
  | .compact h o => some (encPattern h 0x02 o)
  | .epload h n ra => some (encHead h 0xA 0x00 ||| putField 44 n ||| putField 39 ra)
  | .vrun h o => some (encHead h 0xA 0x01 ||| putField 44 o.slot ||| putField 39 o.ra ||| putField 34 o.kb ||| putField 31 o.sk
      ||| putField 29 o.rm)
  | .rscat h o => some (encColl h 0x00 o)
  | .agath h o => some (encColl h 0x01 o)
  | .ared h o => some (encColl h 0x02 o)
  | .a2a h o => some (encColl h 0x03 o)
  | .rnorm h o => some (encColl h 0x04 o)
  | .rsel h o => some (encRoute h 0x00 o)
  | .dispatch h o => some (encRoute h 0x01 o)
  | .return_ h o => some (encRoute h 0x02 o)
  | .combine h o => some (encRoute h 0x03 o)
  | .gather h o => some (encRoute h 0x04 o)
  | .scatter h o => some (encRoute h 0x05 o)
  | .tskip h o => some (encRoute h 0x06 o)
  | .rupd h o => some (encHead h 0xD 0x00 ||| putField 42 o.dg ||| putField 36 o.dw ||| putField 32 o.pslot ||| putField 27 o.kb
      ||| putField 22 o.ra ||| putField 19 o.sk ||| putBit 18 o.gsrc)
  | .rprog h p ra r => some (encHead h 0xD 0x01 ||| putField 44 p ||| putField 39 ra ||| putField 36 r)
  | .rfetch h dd da k => some (encHead h 0xD 0x02 ||| putField 42 dd ||| putField 36 da ||| putField 6 k)
  | .raudit h dw k => some (encHead h 0xD 0x03 ||| putField 36 dw ||| putField 6 k)
  | .qsig h q t => some (encHead h 0x10 0x00 ||| putField 45 q ||| putField 41 t)
  | .qwait h q t => some (encHead h 0x10 0x01 ||| putField 45 q ||| putField 41 t)
  | .fence h m => some (encHead h 0x10 0x02 ||| putField 0 m)
  | .barrier h b d ra => some (encHead h 0x10 0x03 ||| putField 38 ra ||| putBit 4 d ||| putField 0 b)
  | .hwait h rd => some (encHead h 0x10 0x08 ||| putField 43 rd)
  | .hend h => some (encHead h 0x10 0x09)
  | .cnt h rd => some (encHead h 0x10 0x0A ||| putField 43 rd)
  | .digest h da ra r l =>
    some (encHead h 0x11 0x00 ||| putField 36 da ||| putField 31 ra ||| putBit 16 r ||| putField 0 l)
  | .chkst h rd => some (encHead h 0x11 0x01 ||| putField 43 rd)
  | .chkinj h x => some (encHead h 0x11 0x02 ||| putField 0 x)
  | _ => none

/-! ## The commands of the module -/

/-- spec/opcode_table.json gives its rows no bits, so no word of the table's numbering spells a command. -/
def decodeTableWord (_nbits _w : Nat) : Option Instr := none

end Sys2Proof
end

