-- ==== Sys2Proof/Machine/Num.lean ====
section
/-! DEFINITION. Element formats, exact values, rounding and conversion (Number Formats, Bit Planes and Rounding:
R20 to R34, R44, R45). Every rounding starts from an exact value. -/
namespace Sys2Proof.Num

/-- The fifteen element formats of R20, in code order. -/
inductive Fmt where
  | e8m23 | e8m7 | e6m9 | e5m10 | e7m9u | e5m2 | e4m3 | e3m2 | e2m3 | e2m1
  | int8 | int4 | e8m0 | uint16 | int32
  deriving DecidableEq, Repr

/-- Format of a 4-bit code; 0xF names none (R20). -/
def Fmt.ofCode : Nat → Option Fmt
  | 0 => some .e8m23 | 1 => some .e8m7 | 2 => some .e6m9 | 3 => some .e5m10 | 4 => some .e7m9u
  | 5 => some .e5m2 | 6 => some .e4m3 | 7 => some .e3m2 | 8 => some .e2m3 | 9 => some .e2m1
  | 10 => some .int8 | 11 => some .int4 | 12 => some .e8m0 | 13 => some .uint16 | 14 => some .int32
  | _ => none

/-- Code of a format (R20). -/
def Fmt.code : Fmt → Nat
  | .e8m23 => 0 | .e8m7 => 1 | .e6m9 => 2 | .e5m10 => 3 | .e7m9u => 4 | .e5m2 => 5 | .e4m3 => 6
  | .e3m2 => 7 | .e2m3 => 8 | .e2m1 => 9 | .int8 => 10 | .int4 => 11 | .e8m0 => 12 | .uint16 => 13
  | .int32 => 14

/-- Width in bits (R20). -/
def Fmt.width : Fmt → Nat
  | .e8m23 | .int32 => 32
  | .e8m7 | .e6m9 | .e5m10 | .e7m9u | .uint16 => 16
  | .e5m2 | .e4m3 | .int8 | .e8m0 => 8
  | .e3m2 | .e2m3 => 6
  | .e2m1 | .int4 => 4

/-- Mantissa bits, exponent bias, largest finite magnitude code, sign present, and the exponent field of infinities. -/
structure FloatSpec where
  mant : Nat
  bias : Int
  maxCode : Nat
  signed : Bool
  infExp : Option Nat
  canonNan : Option Nat
  deriving DecidableEq, Repr

/-- The floating-point formats' parameters (R20, R22). -/
def Fmt.spec : Fmt → Option FloatSpec
  | .e8m23 => some ⟨23, 127, 0x7F7FFFFF, true, some 255, some 0x7FC00000⟩
  | .e8m7 => some ⟨7, 127, 0x7F7F, true, some 255, some 0x7FC0⟩
  | .e6m9 => some ⟨9, 48, 0x7FFE, true, none, some 0x7FFF⟩
  | .e5m10 => some ⟨10, 15, 0x7BFF, true, some 31, some 0x7E00⟩
  | .e7m9u => some ⟨9, 63, 0xFFFE, false, none, some 0xFFFF⟩
  | .e5m2 => some ⟨2, 15, 0x7B, true, some 31, some 0x7E⟩
  | .e4m3 => some ⟨3, 7, 0x7E, true, none, some 0x7F⟩
  | .e3m2 => some ⟨2, 3, 0x1F, true, none, none⟩
  | .e2m3 => some ⟨3, 1, 0x1F, true, none, none⟩
  | .e2m1 => some ⟨1, 1, 0x7, true, none, none⟩
  | _ => none

/-- An exact value: a finite one is (−1)^neg × m × 2^e. A zero keeps its sign (R29). -/
inductive Val where
  | fin (neg : Bool) (m : Nat) (e : Int)
  | inf (neg : Bool)
  | nan
  deriving DecidableEq, Repr


def Val.zero : Val := .fin false 0 0
def Val.one : Val := .fin false 1 0

def Val.isNan : Val → Bool
  | .nan => true
  | _ => false

/-- Neither a NaN nor an infinity. -/
def Val.isFin : Val → Bool
  | .fin _ _ _ => true
  | _ => false

/-- +0 or −0. -/
def Val.isZero : Val → Bool
  | .fin _ m _ => m == 0
  | _ => false

def Val.isNeg : Val → Bool
  | .fin n _ _ => n
  | .inf n => n
  | .nan => false

/-- The value with its sign replaced. -/
def Val.withSign (b : Bool) : Val → Val
  | .fin _ m e => .fin b m e
  | .inf _ => .inf b
  | .nan => .nan

def Val.abs (v : Val) : Val := v.withSign false
def Val.neg (v : Val) : Val := v.withSign (!v.isNeg)

/-- A finite value times 2^k, exactly. -/
def Val.scale (k : Int) : Val → Val
  | .fin n m e => .fin n m (e + k)
  | v => v

/-- The exact value of an integer. -/
def Val.ofInt (i : Int) : Val := .fin (decide (i < 0)) i.natAbs 0

/-- Two's-complement reading of a `w`-bit code. -/
def twos (w c : Nat) : Int := if c % 2 ^ w < 2 ^ (w - 1) then (c % 2 ^ w : Nat) else (c % 2 ^ w : Nat) - (2 ^ w : Nat)

/-- The value of a code (R21, R22, R24, R25). -/
def decode (f : Fmt) (c0 : Nat) : Val :=
  let c := c0 % 2 ^ f.width
  match f.spec with
  | some sp =>
    let neg := sp.signed && bits c (f.width - 1) (f.width - 1) == 1
    let mag := if sp.signed then c % 2 ^ (f.width - 1) else c
    let e := mag / 2 ^ sp.mant
    let m := mag % 2 ^ sp.mant
    if mag ≤ sp.maxCode then
      if e = 0 then .fin neg m (1 - sp.bias - sp.mant)
      else .fin neg (2 ^ sp.mant + m) (e - sp.bias - sp.mant)
    else if sp.infExp = some e ∧ m = 0 then .inf neg
    else .nan
  | none =>
    match f with
    | .e8m0 => if c = 255 then .nan else .fin false 1 ((c : Int) - 127)
    | .uint16 => .fin false c 0
    | _ => Val.ofInt (twos f.width c)

/-- ⌊log₂⌋ of a positive dyadic magnitude m × 2^e. -/
def flog2 (m : Nat) (e : Int) : Int := (Nat.log2 m : Int) + e

/-- ⌊log₂ (n/d)⌋ of a positive rational times 2^e. -/
def flog2q (n d : Nat) (e : Int) : Int :=
  let k : Int := (Nat.log2 n : Int) - Nat.log2 d
  let ge : Bool := if 0 ≤ k then decide (d * 2 ^ k.toNat ≤ n) else decide (d ≤ n * 2 ^ (-k).toNat)
  (if ge then k else k - 1) + e

/-- The three rounding modes of R27. -/
inductive RMode where
  | rne | rtz | sr
  deriving DecidableEq, Repr

/-- Write-rounding field: 0 RNE, 1 RTZ, 2 SR; 3 is read as 0 (R215, R230). -/
def RMode.ofCode : Nat → RMode
  | 1 => .rtz
  | 2 => .sr
  | _ => .rne

/-- R27: the magnitude (n/d) × 2^e in whole units of 2^q, rounded; `rnd` is the rounding-stream word of SR (R28). -/
def roundUnits (n d : Nat) (e q : Int) (mode : RMode) (rnd : W32) : Nat :=
  let sh := e - q
  let n' := if 0 ≤ sh then n * 2 ^ sh.toNat else n
  let d' := if 0 ≤ sh then d else d * 2 ^ (-sh).toNat
  let lo := n' / d'
  let r := n' % d'
  match mode with
  | .rtz => lo
  | .rne => if 2 * r < d' then lo else if d' < 2 * r then lo + 1 else lo + lo % 2
  | .sr => if rnd.toNat < r * 2 ^ 32 / d' then lo + 1 else lo

/-- Why a conversion clamped: R66 keeps magnitude clamps apart from domain clamps. -/
inductive Clamp where
  | none | magnitude | domain
  deriving DecidableEq, Repr

def Clamp.any : Clamp → Bool
  | .none => false
  | _ => true

/-- Magnitude code of (n/d) × 2^e in a float format, exponent range unbounded above (R27): codes order as magnitudes. -/
def magCode (sp : FloatSpec) (n d : Nat) (e : Int) (mode : RMode) (rnd : W32) : Nat :=
  if n = 0 then 0 else
    let qmin : Int := 1 - sp.bias - sp.mant
    let q := max (flog2q n d e - sp.mant) qmin
    let k := roundUnits n d e q mode rnd
    if k < 2 ^ sp.mant then k
    else (q + sp.mant + sp.bias).toNat * 2 ^ sp.mant + (k - 2 ^ sp.mant)

/-- Ends of the written range of an integer format (R24). -/
def intRange : Fmt → Nat × Nat
  | .int8 => (127, 127)
  | .int4 => (7, 7)
  | .uint16 => (0, 65535)
  | _ => (2 ^ 31 - 1, 2 ^ 31 - 1)

/-- Two's-complement code of an integer in a `w`-bit field. -/
def intCode (w : Nat) (neg : Bool) (m : Nat) : Nat :=
  if neg && m != 0 then 2 ^ w - m % 2 ^ w else m % 2 ^ w

/-- Does R33 define a conversion from `src` to `dst`? -/
def convertible (src dst : Fmt) : Bool :=
  match src, dst with
  | .e8m0, .e8m0 => true
  | .e8m0, .e8m23 => true
  | .e8m0, _ => false
  | _, .e8m0 => false
  | _, _ => true

/-- Conversion of an exact value into a format (R27, R29, R30, R31): the code, and why it clamped. -/
def convert (f : Fmt) (mode : RMode) (rnd : W32) (v : Val) : Nat × Clamp :=
  match f.spec with
  | some sp =>
    let sgn (neg : Bool) (mag : Nat) : Nat := if sp.signed && neg then mag + 2 ^ (f.width - 1) else mag
    match v with
    | .nan => match sp.canonNan with
      | some c => (c, .none)
      | none => (0, .domain)
    | .inf neg => match sp.infExp with
      | some e => (sgn neg (e * 2 ^ sp.mant), .none)
      | none => if sp.signed || !neg then (sgn neg sp.maxCode, .domain) else (0, .domain)
    | .fin neg m e =>
      if m ≠ 0 ∧ neg ∧ !sp.signed then (0, .domain)
      else
        let c := magCode sp m 1 e mode rnd
        if sp.maxCode < c then (sgn neg sp.maxCode, .magnitude) else (sgn neg c, .none)
  | none =>
    match v with
    | .nan => (0, .domain)
    | .inf neg =>
      let r := intRange f
      (intCode f.width neg (if neg then r.1 else r.2), .domain)
    | .fin neg m e =>
      let r := intRange f
      if m ≠ 0 ∧ neg ∧ f = .uint16 then (0, .domain)
      else
        let k := roundUnits m 1 e 0 mode rnd
        let top := if neg then r.1 else r.2
        if top < k then (intCode f.width neg top, .magnitude) else (intCode f.width neg k, .none)

/-- The largest finite magnitude of a format as an exact value (R22, R24). -/
def maxFinite (f : Fmt) : Val :=
  match f.spec with
  | some sp => decode f sp.maxCode
  | none => .fin false (intRange f).2 0

/-- Exact comparison of two finite magnitudes m₁×2^e₁ < m₂×2^e₂. -/
def magLt (m₁ : Nat) (e₁ : Int) (m₂ : Nat) (e₂ : Int) : Bool :=
  let e := min e₁ e₂
  decide (m₁ * 2 ^ (e₁ - e).toNat < m₂ * 2 ^ (e₂ - e).toNat)

/-- Magnitude order of non-NaN values: an infinity lies above every finite value (R139). -/
def Val.absLt : Val → Val → Bool
  | .fin _ m₁ e₁, .fin _ m₂ e₂ => magLt m₁ e₁ m₂ e₂
  | .fin _ _ _, .inf _ => true
  | _, _ => false

/-- Signed order of non-NaN values; −0 and +0 are equal. -/
def Val.lt (a b : Val) : Bool :=
  match a.isNan || b.isNan with
  | true => false
  | false =>
    if a.isZero && b.isZero then false
    else if a.isNeg && !a.isZero then
      if b.isNeg && !b.isZero then Val.absLt b a else true
    else if b.isNeg && !b.isZero then false
    else Val.absLt a b

/-- Equal as real numbers (NaN equals nothing). -/
def Val.eqv (a b : Val) : Bool := !a.isNan && !b.isNan && !Val.lt a b && !Val.lt b a

/-- Exact dyadic number m × 2^e, for sums (R53, R57). -/
structure Dy where
  m : Int
  e : Int
  deriving DecidableEq, Repr

def Dy.zero : Dy := ⟨0, 0⟩

def Dy.add (a b : Dy) : Dy :=
  if a.m = 0 then b else if b.m = 0 then a else
    let e := min a.e b.e
    ⟨a.m * 2 ^ (a.e - e).toNat + b.m * 2 ^ (b.e - e).toNat, e⟩

def Dy.mul (a b : Dy) : Dy := ⟨a.m * b.m, a.e + b.e⟩

/-- Finite part of a value as a dyadic number; NaN and infinity give 0 and are tracked apart (R34). -/
def Val.toDy : Val → Dy
  | .fin neg m e => ⟨if neg then -(m : Int) else m, e⟩
  | _ => Dy.zero

/-- Value of a dyadic number; an exact zero is +0 (R55). -/
def Dy.toVal (d : Dy) : Val := .fin (decide (d.m < 0)) d.m.natAbs d.e

/-- Round a dyadic number to binary32 with R56 saturation: bits, and whether it saturated. -/
def roundF32Sat (d : Dy) (mode : RMode) (rnd : W32) : W32 × Bool :=
  let r := convert .e8m23 mode rnd d.toVal
  (BitVec.ofNat 32 r.1, r.2.any)

/-- The canonical binary32 NaN (R22). -/
def nan32 : W32 := 0x7FC00000

/-- The value of a binary32 register. -/
def ofF32 (b : W32) : Val := decode .e8m23 b.toNat

/-- One round of the mixing function of R45. -/
def arxRound (xy : W32 × W32) (k : W32) : W32 × W32 :=
  let x := ((xy.1.rotateRight 8) + xy.2) ^^^ k
  (x, (xy.2.rotateLeft 3) ^^^ x)

/-- Six rounds with alternating even and odd keys (R45). -/
def mix6 (kEven kOdd : W32) (x y : W32) : W32 × W32 :=
  (List.range 6).foldl (fun xy n => arxRound xy ((if n % 2 = 0 then kEven else kOdd) ^^^ BitVec.ofNat 32 n)) (x, y)

/-- `tensor_key` of R45: (t_hi, t_lo). -/
def tensorKey (seed : W64) (heat tid : Nat) : W32 × W32 :=
  mix6 (seed.setWidth 32) ((seed >>> 32).setWidth 32 ^^^ (BitVec.ofNat 32 tid <<< 8))
    (BitVec.ofNat 32 (heat / 2 ^ 32 % 2 ^ 16)) (BitVec.ofNat 32 heat)

/-- `stream_word` of R45. -/
def streamWord (seed : W64) (heat tid index : Nat) : W32 :=
  let t := tensorKey seed heat tid
  (mix6 t.2 t.1 (BitVec.ofNat 32 (index / 2 ^ 32 % 2 ^ 8)) (BitVec.ofNat 32 index)).2

/-- What the stream words of a sum or a write depend on (R44, R64). -/
structure Ctx where
  seed : W64
  heat : Nat
  tid : Nat
  deriving DecidableEq, Repr

/-- `segment_word` of R64. -/
def segmentWord (c : Ctx) (g n : Nat) : W32 :=
  streamWord (c.seed ^^^ (BitVec.ofNat 64 g <<< 24)) c.heat (c.tid ^^^ 0x400000) n

/-- `window_word` of R64. A term number of 2³² or more, which R64's u32 does not hold, enters with all its bits (log entry
66). -/
def windowWord (c : Ctx) (j n : Nat) : W32 :=
  streamWord (c.seed ^^^ (BitVec.ofNat 64 j <<< 24)) c.heat (c.tid ^^^ 0x800000) n

/-- Plain word of R28 for an element write. -/
def elemWord (c : Ctx) (n : Nat) : W32 := streamWord c.seed c.heat c.tid n

end Sys2Proof.Num
end

