-- ==== Sys2Proof/Machine/Fp32.lean ====
section
/-! DEFINITION. Binary32 and E8M7 arithmetic of the scalar pair and of the vector engine (R34, R170, R183, R184, R204):
one rounding of the exact result with RNE, overflow to infinity, every NaN canonical. -/
namespace Sys2Proof.Fp32

open Sys2Proof.Num

def signBit : W32 := 0x80000000
def infBits : W32 := 0x7F800000

/-- The exact value (−1)^neg × (n/d) × 2^e rounded once with RNE into binary32, or into E8M7 held as binary32 (R184);
beyond the largest finite value the result is an infinity. -/
def roundQ (p16 : Bool) (neg : Bool) (n d : Nat) (e : Int) : W32 :=
  let s : W32 := if neg then signBit else 0
  let f : Fmt := if p16 then .e8m7 else .e8m23
  match f.spec with
  | some sp =>
    let c := magCode sp n d e .rne 0
    let c := if sp.maxCode < c then (if p16 then 0x7F80 else 0x7F800000) else c
    s ||| BitVec.ofNat 32 (if p16 then c * 2 ^ 16 else c)
  | none => nan32

/-- Round an exact value; NaN gives the canonical NaN. -/
def round (p16 : Bool) : Val → W32
  | .nan => nan32
  | .inf neg => if neg then signBit ||| infBits else infBits
  | .fin neg m e => roundQ p16 neg m 1 e

def zero (neg : Bool) : W32 := if neg then signBit else 0
def infinity (neg : Bool) : W32 := if neg then signBit ||| infBits else infBits

/-- Sum of two exact values that are neither NaN nor infinite; an exact zero is −0 only when both are negative. -/
def sumFin (p16 : Bool) (x y : Val) : W32 :=
  let s := x.toDy.add y.toDy
  if s.m = 0 then zero (x.isNeg && y.isNeg) else round p16 s.toVal

/-- The exact product of two finite values. -/
def prodFin : Val → Val → Val
  | .fin a m e, .fin b n f => .fin (a != b) (m * n) (e + f)
  | _, _ => .nan

def add (p16 : Bool) (a b : W32) : W32 :=
  match ofF32 a, ofF32 b with
  | .nan, _ => nan32
  | _, .nan => nan32
  | .inf s, .inf t => if s = t then infinity s else nan32
  | .inf s, _ => infinity s
  | _, .inf t => infinity t
  | x, y => sumFin p16 x y

def neg (a : W32) : W32 := if (ofF32 a).isNan then nan32 else a ^^^ signBit
def abs (a : W32) : W32 := if (ofF32 a).isNan then nan32 else a &&& ~~~signBit
def sub (p16 : Bool) (a b : W32) : W32 := add p16 a (neg b)

/-- Product of two values; infinity times zero is NaN. -/
def mulVal (x y : Val) : Val :=
  match x, y with
  | .nan, _ => .nan
  | _, .nan => .nan
  | .inf s, v => if v.isZero then .nan else .inf (s != v.isNeg)
  | v, .inf s => if v.isZero then .nan else .inf (s != v.isNeg)
  | x, y => prodFin x y

def mul (p16 : Bool) (a b : W32) : W32 := round p16 (mulVal (ofF32 a) (ofF32 b))

/-- a × b + c with one rounding. -/
def fma (p16 : Bool) (a b c : W32) : W32 :=
  match mulVal (ofF32 a) (ofF32 b), ofF32 c with
  | .nan, _ => nan32
  | _, .nan => nan32
  | .inf s, .inf t => if s = t then infinity s else nan32
  | .inf s, _ => infinity s
  | _, .inf t => infinity t
  | x, y => sumFin p16 x y

/-- −0 orders below +0 (R176, R183). -/
def lessZ (x y : Val) : Bool := Val.lt x y || (x.isZero && y.isZero && x.isNeg && !y.isNeg)

/-- Element `MIN`: a NaN operand gives the other operand; two NaNs the canonical one. -/
def fmin (a b : W32) : W32 :=
  let x := ofF32 a
  let y := ofF32 b
  if x.isNan then (if y.isNan then nan32 else b) else if y.isNan then a else if lessZ y x then b else a

def fmax (a b : W32) : W32 :=
  let x := ofF32 a
  let y := ofF32 b
  if x.isNan then (if y.isNan then nan32 else b) else if y.isNan then a else if lessZ x y then b else a

def div (a b : W32) : W32 :=
  match ofF32 a, ofF32 b with
  | .nan, _ => nan32
  | _, .nan => nan32
  | .inf s, v => match v with
    | .inf _ => nan32
    | _ => infinity (s != v.isNeg)
  | v, .inf t => zero (v.isNeg != t)
  | .fin s m e, .fin t n f =>
    if n = 0 then (if m = 0 then nan32 else infinity (s != t))
    else if m = 0 then zero (s != t)
    else roundQ false (s != t) m n (e - f)

/-- ⌊√n⌋ by Newton's iteration from above; sixteen rounds settle every number of this file's size. -/
def isqrt (n : Nat) : Nat :=
  if n = 0 then 0 else
    (List.range 16).foldl (fun x _ => Nat.min x ((x + n / x) / 2)) (2 ^ (Nat.log2 n / 2 + 1))

/-- √(n/d × 2^e) for a positive rational, as m × 2^k exact or strictly inside the same rounding interval. -/
def rootQ (n d : Nat) (e : Int) : Nat × Int :=
  let e2 : Int := e - (e % 2)
  let n' := if e % 2 = 0 then n else 2 * n
  let sc := n' * 2 ^ 320
  let q := sc / d
  let r := isqrt q
  (2 * r + b2n (decide (r * r * d ≠ sc)), e2 / 2 - 161)

def sqrt (a : W32) : W32 :=
  match ofF32 a with
  | .nan => nan32
  | .inf s => if s then nan32 else infBits
  | .fin s m e =>
    if m = 0 then a else if s then nan32
    else let r := rootQ m 1 e; roundQ false false r.1 1 r.2

def rsqrt (a : W32) : W32 :=
  match ofF32 a with
  | .nan => nan32
  | .inf s => if s then nan32 else 0
  | .fin s m e =>
    if m = 0 then infinity s else if s then nan32
    else let r := rootQ 1 m (-e); roundQ false false r.1 1 r.2

/-- Working precision of `EXP2` and `LOG2`, in bits. -/
def prec : Nat := 512

/-- 2^f for a fraction f = k/2^160 in (0, 1), scaled by 2^prec: the product of 2^(2^−i) over the bits of f. -/
def exp2Frac (k : Nat) : Nat :=
  ((List.range 160).foldl
    (fun (p : Nat × Nat) i =>
      let s := isqrt (p.1 * 2 ^ prec)
      (s, if k.testBit (159 - i) then p.2 * s / 2 ^ prec else p.2))
    (2 ^ (prec + 1), 2 ^ prec)).2

/-- 2^a correctly rounded: exact for an integer, otherwise irrational and evaluated far below half a unit. -/
def exp2 (a : W32) : W32 :=
  match ofF32 a with
  | .nan => nan32
  | .inf s => if s then 0 else infBits
  | .fin s m e =>
    let fx : Nat := if 0 ≤ e + 160 then m * 2 ^ (e + 160).toNat else m / 2 ^ (-(e + 160)).toNat
    if 256 * 2 ^ 160 ≤ fx then (if s then 0 else infBits)
    else
      let x : Int := if s then -(fx : Int) else fx
      let n := x / 2 ^ 160
      let f := (x % 2 ^ 160).toNat
      if f = 0 then roundQ false false 1 1 n
      else roundQ false false (2 * exp2Frac f + 1) 1 (n - prec - 1)

/-- log₂ of m/2^prec in (1, 2), scaled by 2^200, by repeated squaring. -/
def log2Frac (m : Nat) : Nat :=
  ((List.range 200).foldl
    (fun (p : Nat × Nat) _ =>
      let q := p.1 * p.1 / 2 ^ prec
      if 2 ^ (prec + 1) ≤ q then (q / 2, 2 * p.2 + 1) else (q, 2 * p.2))
    (m, 0)).2

/-- log₂ a correctly rounded: exact for a power of two (log₂ 1 is +0), otherwise irrational. -/
def log2 (a : W32) : W32 :=
  match ofF32 a with
  | .nan => nan32
  | .inf s => if s then nan32 else infBits
  | .fin s m e =>
    if m = 0 then infinity true else if s then nan32
    else
      let k := Nat.log2 m
      let ip : Int := (k : Int) + e
      if m = 2 ^ k then round false (Val.ofInt ip)
      else
        let y := ip * 2 ^ 201 + (2 * log2Frac (m * 2 ^ prec / 2 ^ k) + 1 : Nat)
        roundQ false (decide (y < 0)) y.natAbs 1 (-201)

/-- Integer nearest an exact value with RNE, clamped to ±(2^(w−1) − 1); NaN gives 0 (R31, R183, R204). -/
def toInt (w : Nat) (a : W32) : Int :=
  let lim : Int := 2 ^ (w - 1) - 1
  match ofF32 a with
  | .nan => 0
  | .inf s => if s then -lim else lim
  | .fin s m e =>
    let k : Int := roundUnits m 1 e 0 .rne 0
    if s then -(min k lim) else min k lim

/-- An integer rounded to binary32 with RNE. -/
def ofInt (i : Int) : W32 := round false (Val.ofInt i)

/-- Relations of element `CMP` (R183): 0 EQ, 1 NE, 2 LT, 3 LE, 4 GT, 5 GE, 6 UNORDERED; −0 equals +0. -/
def cmp (rel : Nat) (a b : W32) : Bool :=
  let x := ofF32 a
  let y := ofF32 b
  let un := x.isNan || y.isNan
  match rel with
  | 0 => !un && Val.eqv x y
  | 1 => un || !Val.eqv x y
  | 2 => !un && Val.lt x y
  | 3 => !un && !Val.lt y x
  | 4 => !un && Val.lt y x
  | 5 => !un && !Val.lt x y
  | 6 => un
  | _ => false

/-- Neither +0 nor −0 (R176, R183): a NaN counts as non-zero. -/
def nonzero (a : W32) : Bool := !(ofF32 a).isZero

end Sys2Proof.Fp32
end

