-- ==== Sys2Proof/Config.lean ====
section
/-! DEFINITION. What an implementation fixes or the manual leaves open: free values (opaque constants with no body,
so that no proof can see one) and the public-key and authenticated-encryption functions that the manual names by their
own standards (R354, R355, R371, R427) and does not define. -/
namespace Sys2Proof.Config

/-- A free bit: the manual allows either outcome. Applied to the state's counter of free choices (log entry 3). -/
opaque freeBit : Nat → Bool
/-- A free 64-bit value (log entry 3). -/
opaque freeWord : Nat → W64
/-- What a byte of memory with no defined value holds, by loss epoch and local address (R416, R275; log entry 2). -/
opaque memByte : Nat → Nat → Byte

/-- Byte i of a packet of this device, whose header and payload layouts R318 does not give: by destination, sequence number and
place (log entry 51). -/
opaque packetByte : Nat → Nat → Nat → Byte
/-- Payload bytes of a message whose length the manual does not give, by its place in `MsgKind` (log entry 51). -/
opaque msgSize : Nat → Nat
/-- Element e of a contribution that arrives by export to a collective that forms no tensor reduction (R246; log entry 44). -/
opaque exportWord : Nat → Nat → W32
/-- A byte that another device's memory answers to a read, by launch, device and address (R83, R279, R327; log entry 20). -/
opaque remoteByte : Nat → Nat → Nat → Byte
/-- The event of host-assisted overflow mode (R68), whose layout the manual does not give: by heat, mould,
the instruction's place in the mould's issue order, tile and stamp (log entry 12). -/
opaque ovfEvent : Nat → Nat → Nat → Nat → W64 → BitVec 512
/-- Byte i of the identity certificate, whose byte layout the manual does not give, outside the enabled-mould map; and the byte at which
that map starts (R428; log entry 14). -/
opaque identByte : Nat → BitVec 8
opaque identMapAt : Nat
/-- Word i of the attestation record of build number n (R429; log entry 14). -/
opaque attestWord : Nat → Nat → W64
/-- Scalar n of the learning-rate schedule held in the ingot of a bank, as a function of the heat number (R401). -/
opaque schedule : Bool → Nat → Nat → W64

/-- What an ingot sets, whose layout inside its blocks the manual does not give, by its ten block digests (log entry 53):
dimension sizes less 1 as in `RUN_TOPO` [27:16] (R346). -/
opaque ingotTopo : List (List Byte) → BitVec 12
/-- The w, x, y and z coordinates of the device address (R440). -/
opaque ingotCoords : List (List Byte) → BitVec 12
/-- The IEEE 1588 domain (R373). -/
opaque ingotDomain : List (List Byte) → Byte
/-- The trust list: pairs of host public keys (R354, R398). -/
opaque ingotTrust : List (List Byte) → List (List Byte × List Byte)

/-- Ed25519 verification under RFC 8032: public key, message, signature. -/
opaque ed25519Verify : List Byte → List Byte → List Byte → Bool
/-- ML-DSA-65 verification under FIPS 204 with an empty context string. -/
opaque mldsaVerify : List Byte → List Byte → List Byte → Bool
/-- The device identity's Ed25519 signature (64 B) over a message (R371, R427). -/
opaque identityEd25519 : List Byte → List Byte
/-- The device identity's ML-DSA-65 signature (3,309 B) over a message (R371, R427). -/
opaque identityMldsa : List Byte → List Byte
/-- The device's fresh X25519 public key, by session count. -/
opaque x25519Public : Nat → List Byte
/-- The X25519 secret shared with a host public key, by session count. -/
opaque x25519Shared : Nat → List Byte → List Byte
/-- ML-KEM-768 encapsulation to a host key, by session count: ciphertext and shared secret. -/
opaque mlkemEncaps : Nat → List Byte → List Byte × List Byte
/-- The device's 32 B nonce, by session count. -/
opaque deviceNonce : Nat → List Byte
/-- AES-256-GCM decryption: key, nonce, additional data, ciphertext, tag. None: the tag fails. -/
opaque gcmOpen : List Byte → List Byte → List Byte → List Byte → List Byte → Option (List Byte)
/-- AES-256-GCM encryption: key, nonce, additional data, plaintext; the ciphertext and its tag. -/
opaque gcmSeal : List Byte → List Byte → List Byte → List Byte → List Byte × List Byte

end Sys2Proof.Config
end

