-- ==== Sys2Proof/Machine/State.lean ====
section
/-! DEFINITION. The state of one Caernik 9 module as plain data, its reset value, and the two reasons for which a step
may stop. Register banks, memories and other large collections are sparse lists in one canonical form: keys strictly
rising, and no entry equal to what an unlisted key reads as. -/
namespace Sys2Proof.Machine

open Sys2Proof.Num

/-- A sparse collection by key: canonical when its keys rise strictly and no entry equals the default. -/
abbrev SMap (α : Type) := List (Nat × α)

/-- Value at a key, `d` where unlisted. -/
def SMap.get {α : Type} (d : α) : SMap α → Nat → α
  | [], _ => d
  | (k, v) :: t, i => if i = k then v else SMap.get d t i

/-- Bytes of a store. An unlisted address reads as zero, but inside a range of `undef` (start, stop, loss epoch) it
reads as the free byte of R416 and R275: `Config.memByte`. Canonical: addresses rise strictly, and outside `undef` no
listed byte is zero. -/
structure Mem where
  cells : List Host.Cell
  undef : List (Nat × Nat × Nat)
  deriving DecidableEq, Repr

def Mem.empty : Mem := ⟨[], []⟩

/-- Where the places of HBM are kept (R270): byte `off` of pseudo-channel pc of stack k at `placeStart` + (64 k + pc) × 1.5 GiB + `off`. -/
def placeStart : Nat := 2 ^ 44
def placeEnd : Nat := placeStart + 512 * 0x60000000

/-! ## Captured work -/

/-- Product kinds (R231). -/
inductive ProdKind where
  | spmm | spmmt | spout | sprobe | dmm
  deriving DecidableEq, Repr

/-- Collective kinds in `MIN` order (R247). -/
inductive CollKind where
  | rscat | agath | ared | a2a | rnorm
  deriving DecidableEq, Repr

/-- Routing kinds in `MIN` order (R250). -/
inductive RouteKind where
  | rsel | dispatch | return_ | combine | gather | scatter | tskip
  deriving DecidableEq, Repr

/-- A tensor instruction as it issued: its fields, the descriptor images captured under R74, the scalar operands
captured under R173, what its issue checks found (R147), and the serial number of its summary producer (R175), 0 where it
names none. A `VRUN` also holds the issue check of R189 and the groups that it has popped so far, each with whether it
matched; a collective its posted value once it has completed. A `COMPACT` also holds its place in R149: 0 not started, 1 waiting
at step 5, 2 committed and waiting at step 9, 3 past step 7 and not yet committed. -/
inductive Work where
  | product (kind : ProdKind) (o : ProdOps) (dw dout df : W512) (ra rb : W64) (coll : Option (Nat × Nat))
  | accwr (o : ProdOps) (dout df : W512) (rb : W64) (coll : Option (Nat × Nat))
  | accld (o : ProdOps) (dw : W512) (rb : W64)
  | tbload (o : MoveOps) (da : W512) (a b : W64)
  | compact (o : PatOps) (w : W512) (tile pcb : W64) (pcbOk : Bool) (ser phase : Nat)
  | prune (o : PatOps) (w q : W512) (tile k : W64) (hostMode : Bool) (ser : Nat)
  | grow (o : PatOps) (w l : W512) (tile k tmin pcb : W64) (pcbOk hostMode : Bool) (ser : Nat)
  | move (o : MoveOps) (dd da : W512)
  | mfill (o : MoveOps) (dd : W512) (a : W64)
  | digest (da : W512) (a : W64) (rec : Bool) (label : BitVec 16)
  | epload (slot : Nat) (a : W64)
  | vrun (o : VrunOps) (map : W64) (imgs : List W512) (ks : List W32) (qok : Bool) (got : List (List Nat × Bool)) (ser : Nat)
  | coll (kind : CollKind) (o : CollOps) (ds dd : W512) (desc : List W64) (descOk : Bool) (ser : Nat) (res : Option W64)
  | route (kind : RouteKind) (o : RouteOps) (d0 d1 d2 : W512) (a b : W64) (desc : List W64) (descOk : Bool) (ser : Nat)
  | rupd (o : RupdOps) (dg dw : W512) (ks : List W32) (a : W64) (after : Option (Nat × Nat)) (ser : Nat)
  | rprog (pslot : Nat) (hdr : List W32) (rsr : Nat) (addrOk : Bool)
  | rfetch (dd da : W512) (sk ser : Nat)
  | raudit (dw : W512) (sk ser : Nat)
  deriving DecidableEq, Repr

/-- An entry of an engine queue (R172, R220), with its place in the issue order (R174). -/
inductive QEnt where
  | work (seq : Nat) (w : Work)
  | sig (t : Nat)
  | wait (t : Nat)
  deriving DecidableEq, Repr

/-- Why a control-core pair does not issue (R173, R175, R220 to R223, R227). What the pair holds is
kept here: the entry for a full queue, or the instruction met outside a heat (R223). -/
inductive PairWait where
  | none
  | room (q : Nat) (e : QEnt)
  | sumGet (k : Nat) (rd : BitVec 5)
  | sumBranch (k : Nat) (cond : Nat) (a : W64) (target : BitVec 13)
  | fence (mask : BitVec 6)
  | barrier (device : Bool) (bid : Nat) (count : W64) (arrived : Bool)
  | hwait (rd : BitVec 5)
  | hend
  | chkst (rd : BitVec 5)
  | heat (i : Instr)
  deriving DecidableEq, Repr

/-! ## A mould -/

/-- One staged element: its value with block scale, its scale exponent (R114), and whether its source's zero bitmap
marks it (R79). -/
structure Staged where
  v : Val
  sexp : Int
  skip : Bool
  deriving DecidableEq, Repr

/-- A staged row (R103, R218, R233): buffer, feature index, token origin, columns staged for, columns read, format,
elements, row-zero flag, source image and token registers for a recomputation (R123). -/
structure StagedRow where
  buf : Nat
  j : Nat
  n0 : Nat
  crow : Nat
  nc : Nat
  fmt : Fmt
  vals : List Staged
  zero : Bool
  src : W512
  deriving DecidableEq, Repr

/-- State of an accumulator tile (R116), in the coding of `MENG_ACC_STATE` (R130). -/
inductive AccSt where
  | closed | opened | queued | recomputing
  deriving DecidableEq, Repr

/-- Lane classes (R100). -/
inductive LaneClass where
  | narrow | bits8 | bits16
  deriving DecidableEq, Repr

/-- Where a tile's elements stand in the output tensor (R107): a grid with an origin and the tensor's EXT0, or the
dense positions of packed results in a shape with that EXT0. -/
inductive NMap where
  | grid (row col ext0 : Nat)
  | packed (ext0 : Nat) (ns : List Nat)
  deriving DecidableEq, Repr

/-- One product's contribution to a sum, kept for R123: the instruction as captured, the run seed and the heat in which it
ran (R64), and the rows it found staged (newest first) as buffer, source image, feature index, token origin and columns
read, and the term numbers it entered. -/
structure Prov where
  work : Work
  seed : W64
  heat : Nat
  rows : List (Nat × W512 × Nat × Nat × Nat)
  js : List Nat
  deriving DecidableEq, Repr

/-- What an open sum records when it opens (R117, R235), with its terms by term number (R57, R58), its provenance
(R118) and whether an old value entered it (R58). -/
structure OpenSum where
  tid : Nat
  origin : Nat × Nat
  cls : LaneClass
  heat : Nat
  srs : Bool
  wrs : Bool
  nmap : NMap
  terms : List (Nat × SMap W32)
  old : Bool
  prov : List Prov
  deriving DecidableEq, Repr

/-- An accumulator tile: 64 × 64 binary32 values by row-major index, state, live saturation, and its sum. The record of
the last sum stays until write-back retires or a new sum opens (R118, R123). -/
structure AccTile where
  vals : SMap W32
  st : AccSt
  sat : Bool
  sum : Option OpenSum
  deriving DecidableEq, Repr

def AccTile.reset : AccTile := ⟨[], .closed, false, none⟩

/-- A bound edit slot (R138): tile, base directory entry, drops and grows as ascending tile positions. -/
structure Edit where
  tid : Nat
  tr : Nat
  tc : Nat
  base : W64 × W64
  drops : List Nat
  grows : List Nat
  deriving DecidableEq, Repr

/-- An element-program slot (R180): header, instructions, validity (R186). -/
structure EpSlot where
  hdr : W32
  code : List W32
  valid : Bool
  deriving DecidableEq, Repr

def EpSlot.reset : EpSlot := ⟨0, [], false⟩

/-- A finished-tile queue entry (R197) with its group size. -/
structure FtqEnt where
  tile : Nat
  first : Bool
  size : Nat
  deriving DecidableEq, Repr

/-- A summary producer that has issued (R175): register, serial, and its value once it has retired. -/
structure Producer where
  k : Nat
  ser : Nat
  val : Option W64
  deriving DecidableEq, Repr

/-- Why the instruction at the head of the matrix queue has not retired: its tiles that overflowed on write wait for
their recomputation (R67, R123), or its closed tiles wait for room in the finished-tile queue (R188); with the flags that
it records when it retires. -/
inductive EngWait where
  | none
  | recomp (tiles : List Nat) (flags : W64)
  | push (tiles : List Nat) (flags : W64)
  deriving DecidableEq, Repr

/-- A checkpoint (R387): registers, heat state and tokens, data memory, element programs, per-heat counts. -/
structure Ckpt where
  x : SMap W64
  p : Byte
  d : SMap W512
  s : SMap W64
  producers : List Producer
  pc : BitVec 13
  heatState : Nat
  tokIssued : W16
  tokSignalled : W16
  tokMore : List Nat
  dmem : Mem
  ep : SMap EpSlot
  counts : SMap W64
  arrivals : SMap Nat
  launched : Option Nat
  digs : Nat
  num : Nat
  deriving DecidableEq, Repr

/-- The context of one global mould index (R167 to R169, R99, R138, R180, R188): what its work sees, wherever it runs.
`tokIssued` holds the tokens with a `QSIG` issued and not consumed, `tokMore` one entry for each signal of a token beyond the
one that `tokSignalled` shows (R220), `launched` a heat that has reached the mould
and is not yet taken (R223, R365), `arrivals` the barrier arrivals that the index has executed in this heat, `oldDigests` entries made after the checkpoint from
which a guest resumed (R390), `spillCut` that a change of the flask split has cut off the spill area (R275), `loaded` an image loaded while the index's work still runs as a guest (R396, R399). `regs` is the mould register space by offset (R211, R193, R127, R162, R401): configuration, counts and sticky flags. -/
structure Mould where
  x : SMap W64
  p : Byte
  d : SMap W512
  s : SMap W64
  producers : List Producer
  pc : BitVec 13
  imem : SMap W64
  dmem : Mem
  ocache : Mem
  rows : List StagedRow
  acc : SMap AccTile
  edit : SMap (Option Edit)
  ep : SMap EpSlot
  ftq : List FtqEnt
  ftqPend : Bool
  queues : SMap (List QEnt)
  tokIssued : W16
  tokSignalled : W16
  tokMore : List Nat
  launched : Option Nat
  wait : PairWait
  running : Bool
  halted : Bool
  stopped : Bool
  engWait : EngWait
  spillCut : Bool
  digests : List (Nat × BitVec 128)
  oldDigests : List (Nat × BitVec 128)
  loaded : Option (SMap W64)
  inj : List Nat
  retries : Nat
  ser : Nat
  collIssued : List (Nat × Nat × Nat)
  arrivals : SMap Nat
  ckpt : Option Ckpt
  regs : SMap W64
  deriving DecidableEq, Repr

/-- The void descriptor image of R71. -/
def voidImage : W512 := 0xF000000001000000

/-- A mould after a reset that clears it (R168), before the pair is released. -/
def Mould.reset : Mould :=
  { x := [], p := 0, d := [], s := [], producers := [], pc := 0, imem := [], dmem := Mem.empty, ocache := Mem.empty,
    rows := [], acc := [], edit := [], ep := [], ftq := [], ftqPend := false, queues := [],
    tokIssued := 0, tokSignalled := 0, tokMore := [], launched := none, wait := .none, running := false, halted := false,
    stopped := false, engWait := .none, spillCut := false, digests := [], oldDigests := [], loaded := none, inj := [], retries := 0, ser := 0, collIssued := [], arrivals := [], ckpt := none,
    regs := [] }

/-! ## Crucible sequencers and risers -/

/-- A barrier (R222): scope, crucible, identifier; of its current generation the first arrival's count and the indices
arrived; its number; the indices of completed generations that are not yet released; and how many arrivals of each index it
has taken in this heat, by which it knows a repeat (R381). -/
structure Barrier where
  device : Bool
  crucible : Nat
  bid : Nat
  count : Nat
  arrived : List Nat
  generation : Nat
  done : List Nat
  taken : SMap Nat
  deriving DecidableEq, Repr

/-- A command at its riser, with the mould that issued it (R257): chunks done so far, the value to post so far, and for an
`RFETCH` the record offset at which the next chunk is placed. -/
structure RiserCmd where
  g : Nat
  work : Work
  next : Nat
  val : Nat
  off : Nat
  deriving DecidableEq, Repr

/-- The chunk that a riser has open (R296, R309): shard entry, chunk, phase. -/
structure OpenChunk where
  entry : Nat
  chunk : Nat
  phase : Nat
  deriving DecidableEq, Repr

/-- A riser (R282 to R304): program slots, claims by (TID, tile, mould), its commands, the one at the head executing; the
open chunk; failed (R304), stopped by quench, resumption due (R297); the audits for the heat
record (R302): TID, largest `CHEAT`, shard digest. Its registers are in `State.regs`. -/
structure Riser where
  slots : SMap EpSlot
  claims : List (Nat × Nat × Nat)
  queue : List RiserCmd
  opened : Option OpenChunk
  failed : Bool
  stopped : Bool
  recover : Bool
  audits : List (Nat × Nat × BitVec 128)
  deriving DecidableEq, Repr

def Riser.reset : Riser := ⟨[], [], [], none, false, false, false, []⟩

/-! ## Runner: collectives and routing -/

/-- A local mould's part in a collective (R329, R334): its `DS`, summary producer, first term number, the results that
it has exported, by the element's index in the full shape, and the free choice that an exported contribution of another kind takes
(log entry 44). -/
structure Contrib where
  g : Nat
  ds : W512
  ser : Nat
  segbase : Nat
  exports : SMap (List (Nat × W32))
  free : Nat
  deriving DecidableEq, Repr

/-- Where a collective stands (R330, R331): waiting for slots; exchanging headers; exchanging codes and windows; gathering
results; retired, with alignment codes of other owners still to answer. -/
inductive CollPhase where
  | slots | headers | windows | gather | done
  deriving DecidableEq, Repr

/-- An open collective (R246, R329 to R335): its descriptor fields, local contributions, the writer's `DD`, and what the
members have sent: headers, exponent codes, alignment codes, partial windows and results, by rank, those of a sparse tensor with the
NNZ of the sender's tiles (R333); the owners whose alignment codes have been answered. -/
structure Coll where
  grp : Nat
  cseq : Nat
  kind : CollKind
  hold : Bool
  xsrc : Bool
  wrs : Bool
  rm : Nat
  heat : Nat
  since : W64
  phase : CollPhase
  local_ : List Contrib
  dd : Option W512
  header : Option CollHeader
  heads : List (Nat × CollHeader)
  codes : List (Nat × List Nat × List W16)
  align : List (Nat × List Nat × List W16)
  windows : List (Nat × List (BitVec 96))
  results : List (Nat × List Nat × List W32)
  answered : List Nat
  slots : Nat
  deriving DecidableEq, Repr

/-- Results held in the reduction buffers (R333): TID, heat, part's first element, binary32 results, slots. -/
structure HeldRed where
  tid : Nat
  heat : Nat
  base : Nat
  vals : List W32
  slots : Nat
  deriving DecidableEq, Repr

/-- One exported group leaving a mould (R122, R334): mould, collective, elements by their coordinates in the output's
shape with their segment results, and whether it carries the old-value term. -/
structure ExportMsg where
  g : Nat
  grp : Nat
  cseq : Nat
  elems : List (Nat × Nat × List (Nat × W32))
  bad : Bool
  deriving DecidableEq, Repr

/-- Where one choice of a routing step stands (R340, R343 to R345): waiting for the counts; sent to its expert; dropped;
returned with its elements' codes; combined into its token's row. All but dropped and combined hold landing space. -/
inductive ChoiceSt where
  | waiting | sent | dropped | returned (codes : List Nat) | combined
  deriving DecidableEq, Repr

/-- One non-empty choice: global token index, rank, expert, row of X. -/
structure Choice where
  token : Nat
  rank : Nat
  expert : Nat
  row : Nat
  st : ChoiceSt
  deriving DecidableEq, Repr

/-- Where a `DISPATCH` stands (R340): waiting for landing space; counts exchanged; rows sent and expected; its own rows to be
acknowledged; retired; voided by a timeout, or ended by an error response. -/
inductive RoutePhase where
  | space | counts | rows | acks | done | void | error
  deriving DecidableEq, Repr

/-- A routing step (R252, R340 to R345): descriptor fields, the issuing mould, landing slots of one choice, its choices,
counts received by device with their `RB`, arrivals written at hosted experts, choices dropped. -/
structure RouteStep where
  rseq : Nat
  grp : Nat
  etab : Nat
  cap : Nat
  g : Nat
  x : W512
  base : Nat
  since : W64
  heat : Nat
  unit : Nat
  phase : RoutePhase
  choices : List Choice
  counts : List (Nat × Nat × List Nat)
  arrivals : List (Nat × Nat)
  drops : Nat
  deriving DecidableEq, Repr

/-- A packet that waits for credits on a port: its virtual channel there, and for a packet in transit the port that it came in by, its
channel, and the reserved and shared flits that it holds of that port's buffer (R319). -/
structure Waiting where
  vc : Nat
  pkt : Packet
  src : Option (Nat × Nat × Nat × Nat)
  deriving DecidableEq, Repr

/-- Link-level state of a fabric port (R319, R320): next and expected link sequence numbers, the retry buffer, credits,
packets that wait for credits, replays of the oldest packet and in the current millisecond; of the receive buffer, the flits held by
channel and those of the shared part; and the lane skew measured at training (R337). -/
structure Port where
  txSeq : BitVec 12
  rxSeq : BitVec 12
  retry : List Packet
  reserved : SMap Nat
  shared : Nat
  waiting : List Waiting
  replays : Nat
  replaysMs : Nat
  msStart : W64
  rxHeld : SMap Nat
  rxShared : Nat
  skew : BitVec 32
  deriving DecidableEq, Repr

def Port.reset : Port := ⟨0, 0, [], [], 0, [], 0, 0, 0, [], 0, 0⟩

/-- A packet of this device's own that has not been acknowledged (R321): the message of `Runner.out` that it is part of, and when it
was last sent. -/
structure SentPkt where
  pkt : Packet
  msg : Nat
  stamp : W64
  deriving DecidableEq, Repr

/-- Messages that leave through the fabric, each a packet's contents (R318, R331, R340, R360). -/
inductive FabMsg where
  | packet (p : Nat) (pkt : Packet)
  | ack (dest : W16) (seq : W64)
  | nak (p : Nat) (seq : BitVec 12)
  | linkAck (p : Nat) (seq : BitVec 12)
  | credits (p vc reserved shared : Nat)
  | readReq (dest : W16) (region addr len : Nat)
  | readData (dest : W16) (addr : Nat) (data : List Byte)
  | linkState (src : W16) (num : W64) (links : List (Nat × Bool))
  | timeAdv (p depth master : Nat) (has : Bool) (stamp : W64)
  | header (grp cseq : Nat) (rank : Nat) (hd : CollHeader)
  | codes (grp cseq : Nat) (owner : Nat) (nnz : List Nat) (cs : List W16)
  | align (grp cseq : Nat) (nnz : List Nat) (cs : List W16)
  | window (grp cseq : Nat) (owner : Nat) (ws : List (BitVec 96))
  | results (grp cseq : Nat) (dest : Nat) (nnz : List Nat) (vs : List W32) (bytes : Nat)
  | counts (rseq : Nat) (base : Nat) (cs : List Nat)
  | row (rseq : Nat) (dest : W16) (expert slot : Nat) (tag : RowTag) (codes scales : List Byte)
  | returned (rseq : Nat) (dest : W16) (tag : RowTag) (codes : List Byte)
  | launch (grp : Nat) (heat : Nat) (l : W64) (flags : Nat)
  | fetch (riser : Nat) (tid chunk : Nat) (dest : W16) (entries : List (W64 × W64)) (recs : List (List Byte))
      (wdig : BitVec 128) (cheat : Nat) (bad : Bool)
  | fetchReq (dest : W16) (tid chunk : Nat) (da : W512)
  | mismatch (dest : W16) (tid chunk : Nat) (da : W512)
  | error (dest : W16)
  deriving DecidableEq, Repr

/-- The runner and the fabric (R312 to R348): open collectives, held results, the collectives that have ended (group,
sequence number, heat, posted value), messages that came before the local issue, exports on their way, routing steps, the moulds
whose `RETURN` waits with the messages [from, to) that it sent, ports, links known to be down and devices that cannot be reached,
packets received by device and sequence number, own packets not yet acknowledged, how many messages of `out` have been made
packets and the next sequence number for each destination, link-state numbers; for time, what the neighbours advertise (port, depth, master), the stamp at which a master
was last seen, whether the counter has locked since reset, the slew for the next tick and when it was last set. Its registers are in
`State.regs`. -/
structure Runner where
  colls : List Coll
  held : List HeldRed
  finished : List (Nat × Nat × Nat × W64)
  early : List Instr
  exports : List ExportMsg
  steps : List RouteStep
  returning : List (Nat × Nat × Nat)
  ports : SMap Port
  links : List Nat
  down : List Nat
  received : List (W16 × W64)
  unacked : List SentPkt
  txNext : Nat
  txSeqs : SMap Nat
  lsSeen : List (W16 × W64)
  lsNum : W64
  adv : List (Nat × Nat × Nat)
  masterSeen : W64
  noMaster : Bool
  everLocked : Bool
  slew : Int
  slewAt : W64
  out : List FabMsg
  deriving DecidableEq, Repr

/-! ## Host port and heats -/

/-- What leaves through the host port: messages as they are composed (R352, R358), the packets that carry them, acknowledgements
and what is sent again among them, in their bytes (R350, R351), frames that answer others (R349), delay requests with their number
and time of sending (R362), and error responses to a session's command (R17). -/
inductive HostOut where
  | accept (sid : W32) (pub ct nonce sigEd sigMl : List Byte)
  | reply (sid : W32) (op : Nat) (status : Nat) (psn : W64) (results : List W64)
  | dataOut (sid : W32) (addr : Nat) (data : List Byte)
  | event (e : W512)
  | stream (bytes : List Byte)
  | packet (sid : W32) (cls : Nat) (bytes : List Byte)
  | delayReq (seq : Nat) (t3 : W64)
  | error (sid : W32) (op : Nat) (psn : W64)
  | frame (kind : FrameKind) (payload : List Byte)
  deriving DecidableEq, Repr

/-- What a packet sent to the host carried, kept until it is acknowledged: an event (R352), bytes of the state stream (R305),
or anything else. -/
inductive TxItem where
  | event (e : W512)
  | stream
  | other
  deriving DecidableEq, Repr

/-- A packet sent to the host and not acknowledged (R351): its `PSN`, `END`, what it carried, its payload, and when it was last sent. -/
structure TxPkt where
  psn : W64
  last : Bool
  item : TxItem
  payload : List Byte
  sent : W64
  deriving DecidableEq, Repr

/-- Per session and class (R350, R351): the next `PSN` to receive, packets received and not yet delivered, the next `PSN` to
send, packets sent and not acknowledged. -/
structure Chan where
  cls : Nat
  rxNext : W64
  rxHave : List (Nat × Bool × List Byte)
  txNext : W64
  unacked : List TxPkt
  deriving DecidableEq, Repr

/-- An open session, or a handshake in progress (R354, R355). -/
structure Session where
  sid : W32
  opened : Bool
  transcript : List Byte
  hostEd : List Byte
  hostMl : List Byte
  keys : List Byte
  ikm : List Byte
  last : W64
  chans : List Chan
  deriving DecidableEq, Repr

/-- A pending launch (R365): heat, L, flags, PSN, source rank under R361 (2 holder, 3 peer), relaying peer. -/
structure Launch where
  heat : Nat
  l : W64
  flags : Nat
  psn : W64
  rank : Nat
  peer : W16
  deriving DecidableEq, Repr

/-- An order seen in the current contention window (R361): its target, its window, source rank, PSN. -/
structure Order where
  target : Nat
  window : Nat
  rank : Nat
  psn : W64
  deriving DecidableEq, Repr

/-- An entry of the input log (R367), kept until its heat's record is placed. -/
structure InputEnt where
  iseq : Nat
  stamp : W64
  op : Nat
  target : Nat
  len : Nat
  dig : BitVec 128
  deriving DecidableEq, Repr

/-- The delay measurement of the IEEE 1588 clock (R362): a `Sync` whose `Follow_Up` is to come, with its arrival; the number of the
next delay request; and the one outstanding, with the three times measured. -/
structure Ptp where
  sync : Option (W16 × W64)
  seq : Nat
  req : Option (Nat × W64 × W64 × W64)
  deriving DecidableEq, Repr

/-- The host port (R349 to R374): with what it holds for the state stream, the ring bytes placed and not yet taken (R305),
and the mode bits asked for and not yet in force (R400). Its registers are in `State.regs`. -/
structure HostPort where
  sessions : List Session
  nextSid : Nat
  deferred : List (W64 × Instr)
  waitingIn : List (W64 × Instr)
  events : List W512
  out : List HostOut
  orders : List Order
  credit : Nat
  streamOut : List (List Byte)
  ringUsed : Nat
  modeNext : W64
  relay : Option W16
  trust : List (List Byte × List Byte)
  ptp : Ptp
  deriving DecidableEq, Repr

/-- A record of the state stream (R306): its type, riser, heat, index, `TID`, payload and digest. -/
structure RingRec where
  type : Nat
  riser : Nat
  heat : Nat
  index : Nat
  tid : Nat
  payload : List Byte
  dig : BitVec 128
  deriving DecidableEq, Repr

/-- What the record of a heat will hold (R369, R370): its number, `FLAGS` without `CHAINRST`, run seed, digest key, L, the inputs that
it took, moulds in service, and the entries of the three sections. -/
structure HeatRec where
  heat : Nat
  flags : Nat
  seed : W64
  key : BitVec 128
  l : W64
  taken : List InputEnt
  nmould : Nat
  units : List (List Byte)
  digs : List (List Byte)
  faults : List W512
  deriving DecidableEq, Repr

/-- The heat in progress and what its record will hold (R364 to R372), with the records of earlier heats that a launch overtook while
they waited for the ring, oldest first; the fenced work that waits for a carrier, with the
target that the holder has assigned (R389, R403); bytes of the record ring not yet taken (R369), and the `PATTERN` and `HEAT_END`
records that wait, in this order, for room in the state stream (R156, R305, R307); and the serial of the last launch, at which what
was cached of other devices is dropped (R279). -/
structure Heats where
  seed : W64
  key : BitVec 128
  base : Nat
  lastSince : Option Nat
  pendingLaunch : Option Launch
  l : W64
  flags : Nat
  windowStart : W64
  inputs : List InputEnt
  taken : List InputEnt
  seedNew : Bool
  injected : Bool
  noLock : Bool
  held : Bool
  fatal : Bool
  overdue : Bool
  faults : List W512
  chain : Option (List Byte)
  recUsed : Nat
  endWait : List RingRec
  guests : List (Nat × Option Nat)
  launches : Nat
  owed : List HeatRec
  deriving DecidableEq, Repr

/-! ## Power, flash, fuses and pins -/

/-- `PWR_STATUS.STATE` (R431). -/
inductive PwrSt where
  | charging | fuse | ingot | tap | ready | quench | held | bootwait
  deriving DecidableEq, Repr

/-- An ingot bank as its checks see it (R424, R425): whether header and version are right, the hash of its two public
keys, `SVN`, whether each signature verifies, whether every block digest matches and every read was correctable, the
ten block digests. -/
structure Ingot where
  magicOk : Bool
  keyHash : List Byte
  svn : Nat
  edOk : Bool
  mlOk : Bool
  digestsOk : Bool
  readOk : Bool
  blocks : List (List Byte)
  topo : Nat
  coords : Nat
  domain : Nat
  trust : List (List Byte × List Byte)
  deriving DecidableEq, Repr

/-- A fused key slot (R426). -/
structure KeySlot where
  hash : List Byte
  sealed : Bool
  revoked : Bool
  deriving DecidableEq, Repr

/-- A save image (R412) as the words of its window. -/
structure SaveImg where
  qseq : Nat
  slot : Nat
  heat : Nat
  fseq : Nat
  chain : Option (List Byte)
  words : SMap W64
  deriving DecidableEq, Repr

/-- Masked faults of one unit and mechanism that wait to be reported together (R384): when the last event went out, how many
have come since, and what the last of them said. -/
structure MaskedFault where
  unit : Nat
  mech : Nat
  since : W64
  n : Nat
  action : Nat
  inject : Bool
  detail : Nat
  deriving DecidableEq, Repr

/-- Fuses, module flash, pins and supply (R3, R406 to R431, R436 to R452), and the fault log's sequence number and
merged masked faults by unit and mechanism (R384, R385). Its registers are in `State.regs`. -/
structure Power where
  st : PwrSt
  fused : List Nat
  keys : List KeySlot
  fsvn : Nat
  bankA : Ingot
  bankB : Ingot
  opt : W64
  optSeq : Nat
  optBusy : Bool
  saves : List SaveImg
  nextSave : Nat
  slotStrap : BitVec 4
  mated : Bool
  ejectHigh : Bool
  removing : Bool
  rstLow : Bool
  refclk : Bool
  standby : Bool
  ingotBusy : Option Nat
  ingotPending : Option Ingot
  activated : List Nat
  attests : Nat
  temps : BitVec 192
  tripped : Bool
  hotLast : List Nat
  hotOver : List Nat
  mpRestart : Option W64
  alert : BitVec 32
  thermtrip : Bool
  identPtr : Byte
  smbus : List (List Byte)
  fseq : Nat
  masked : List MaskedFault
  deriving DecidableEq, Repr

/-! ## The module -/

/-- The whole module, and the queue of commands that wait. -/
structure State where
  /-- Commands waiting, first in, first out. -/
  pending : List Instr
  /-- System counter (R11) and the reference period within its group of five. -/
  cnt : W64
  phase : Nat
  /-- Device register space by offset (R375): every stored field of every register. -/
  regs : SMap W64
  /-- HBM and flask windows by local address (R261); HBM bytes of no allocated region by their place (R270), from `placeStart` on. -/
  mem : Mem
  /-- Regions freed and not yet drained: number, base, limit and placement as they were (R268). -/
  draining : List (Nat × Nat × Nat × W64)
  moulds : SMap Mould
  barriers : List Barrier
  seqMismatch : List Nat
  risers : SMap Riser
  runner : Runner
  host : HostPort
  heats : Heats
  pwr : Power
  /-- Free choices taken so far: the model's own field (log entry 3). -/
  free : Nat
  /-- Times that the contents of a memory were lost: the model's own field (log entry 2). -/
  epoch : Nat
  deriving DecidableEq, Repr

def Runner.reset : Runner :=
  { colls := [], held := [], finished := [], early := [], exports := [], steps := [], returning := [], ports := [], links := [], down := [],
    received := [], unacked := [], txNext := 0, txSeqs := [], lsSeen := [], lsNum := 0, adv := [], masterSeen := 0, noMaster := false, everLocked := false,
    slew := 0, slewAt := 0, out := [] }

def HostPort.reset : HostPort :=
  { sessions := [], nextSid := 1, deferred := [], waitingIn := [], events := [], out := [], orders := [],
    credit := 0, streamOut := [], ringUsed := 0, modeNext := 0, relay := none, trust := [], ptp := ⟨none, 0, none⟩ }

def Heats.reset : Heats :=
  { seed := 0, key := 0, base := 0, lastSince := none, pendingLaunch := none, l := 0, flags := 0, windowStart := 0,
    inputs := [], taken := [], seedNew := false, injected := false, noLock := false, held := false,
    fatal := false, overdue := false, faults := [], chain := none, recUsed := 0, endWait := [], guests := [], launches := 0, owed := [] }

/-- The hash in key slot 0, sealed with the Halris signing keys at test (R426); its value is the model's (log entry 5). -/
def halrisHash : List Byte := List.replicate 32 0

/-- The ingot a module ships with in bank A: accepted under R425 by key slot 0 (log entry 5). -/
def Ingot.shipped : Ingot :=
  { magicOk := true, keyHash := halrisHash, svn := 0, edOk := true, mlOk := true, digestsOk := true, readOk := true,
    blocks := List.replicate 10 (List.replicate 32 0), topo := 0, coords := 0, domain := 0, trust := [] }

/-- An empty bank: its magic fails the first check of R425. -/
def Ingot.blank : Ingot :=
  { magicOk := false, keyHash := [], svn := 0, edOk := false, mlOk := false, digestsOk := false, readOk := true,
    blocks := [], topo := 0, coords := 0, domain := 0, trust := [] }

/-- Key slots 0 to 3 as tested: slot 0 sealed, slots 1 to 3 not written (R426). -/
def KeySlot.shipped : List KeySlot :=
  [⟨halrisHash, true, false⟩, ⟨List.replicate 32 0, false, false⟩, ⟨List.replicate 32 0, false, false⟩,
   ⟨List.replicate 32 0, false, false⟩]

/-- The part and its supply at a cold power-on, before bring-up (log entries 4 and 5). -/
def Power.reset : Power :=
  { st := .charging, fused := [], keys := KeySlot.shipped, fsvn := 0, bankA := Ingot.shipped, bankB := Ingot.blank,
    opt := 0x30200, optSeq := 0, optBusy := false, saves := [], nextSave := 0, slotStrap := 0,
    mated := true, ejectHigh := true, removing := false, rstLow := false, refclk := false,
    standby := true, ingotBusy := none, ingotPending := none, activated := [], attests := 0,
    temps := 0, tripped := false, hotLast := [], hotOver := [], mpRestart := none, alert := 0,
    thermtrip := false, identPtr := 0, smbus := [],
    fseq := 0, masked := [] }

/-- The module right after a cold reset: every register at its Reset value (an unlisted offset reads as the Reset column
of its table says), the flask and every SRAM zero, HBM with no defined value (R416), bring-up not yet run. -/
def State.reset : State :=
  { pending := [], cnt := 0, phase := 0, regs := [], mem := ⟨[], [(0, 2 ^ 40, 0), (placeStart, placeEnd, 0)]⟩, draining := [], moulds := [], barriers := [],
    seqMismatch := [], risers := [], runner := Runner.reset, host := HostPort.reset, heats := Heats.reset,
    pwr := Power.reset, free := 0, epoch := 1 }

/-- No command of this block stops the machine with a fault: the manual answers every wrong access with a violation, an
error response or a fault EVENT (R15, R17, R18), each of which is a next state. The type has no constructor. -/
inductive Fault where
  deriving DecidableEq, Repr

/-- Refusals. -/
inductive Refusal where
  /-- Raised only by an arm of `exec` whose command has no meaning yet. Safe: nothing is claimed of it. -/
  | notModelled (mnemonic : String)
  deriving DecidableEq, Repr

/-- The outcome type of every meaning. -/
abbrev Res := Host.Outcome State Fault Refusal

end Sys2Proof.Machine
end

