-- ==== Sys2Proof/Machine/Regs.lean ====
section
/-! DEFINITION. Every register table of the manual as data: for each offset of the mould register space (R127, R162,
R193, R211, R401) and of the device register space (R265, R309, R346, R373, R375, R404, R430), its reset value and which
bits are RW, W1C, WO and RO. What is none of these is reserved (R16). -/
namespace Sys2Proof.Machine

/-- One register: reset value; masks of the RW, W1C, WO and RO fields. -/
structure RegRow where
  reset : W64
  rw : W64
  w1c : W64
  wo : W64
  ro : W64
  deriving DecidableEq, Repr

/-- Bits [hi:lo] set. -/
def mask (hi lo : Nat) : W64 := BitVec.ofNat 64 (2 ^ (hi + 1) - 2 ^ lo)

/-- A register with no RW, WO or W1C field: every write to it is counted. -/
def roRow (reset : W64) : RegRow := ⟨reset, 0, 0, 0, 0⟩

/-- A register whose fields are all RW. -/
def rwRow (reset rw : W64) : RegRow := ⟨reset, rw, 0, 0, 0⟩

/-- A register whose fields are all W1C. -/
def w1cRow (m : W64) : RegRow := ⟨0, 0, m, 0, 0⟩

/-- R16: does a write access to a register that now reads `cur` count? An unused offset is `none`. -/
def countedWrite (row : Option RegRow) (cur v : W64) : Bool :=
  match row with
  | none => true
  | some r =>
    let open_ := r.rw ||| r.w1c ||| r.wo
    open_ == 0 || (v &&& ~~~(open_ ||| r.ro)) != 0 || ((v ^^^ cur) &&& r.ro) != 0

/-- R14, R16: the stored value after a write: RW bits taken, W1C bits cleared where 1 was written, the rest kept. -/
def mergeWrite (r : RegRow) (old v : W64) : W64 :=
  ((old &&& ~~~r.rw) ||| (v &&& r.rw)) &&& ~~~(v &&& r.w1c)

namespace Reg

/-! ### Mould register space -/

abbrev MID_IDENT := 0x000
abbrev MID_HEAT := 0x008
abbrev MID_HEAT_STATE := 0x010
abbrev MID_SEED := 0x018
abbrev MID_TOKENS := 0x020
abbrev MID_TEST := 0x028
abbrev CTL_STATUS := 0x200
abbrev CTL_SUM_PEND := 0x208
abbrev CTL_CNT_VIOL := 0x210
abbrev CTL_PERF_ISSUE := 0x218
abbrev CTL_PERF_WAIT := 0x220
abbrev MENG_STATUS := 0x400
abbrev MENG_CFG := 0x408
abbrev MENG_FLAGS := 0x410
abbrev MENG_FLAGS_STICKY := 0x418
abbrev MENG_ACC_STATE := 0x420
abbrev MENG_SAT := 0x428
abbrev MENG_SPILL_BASE := 0x430
abbrev MENG_SPILL_LIMIT := 0x438
abbrev MENG_TLOG_USED := 0x440
abbrev MENG_CNT_CAPOVF := 0x448
abbrev MENG_CNT_OVFREC := 0x450
abbrev MENG_CNT_CLAMP := 0x458
abbrev MENG_CNT_VIOL := 0x460
abbrev MENG_PERF_NZ := 0x468
abbrev MENG_PERF_SKIP := 0x470
abbrev MENG_PERF_BUSY := 0x478
abbrev MENG_CHK_RETRY := 0x480
abbrev PAT_STATUS := 0x500
abbrev PAT_CFG := 0x508
abbrev PAT_EDIT_STATE := 0x510
abbrev PAT_CNT_PRUNED := 0x518
abbrev PAT_CNT_GROWN := 0x520
abbrev PAT_CNT_COMMIT := 0x528
abbrev PAT_CNT_PASSED := 0x530
abbrev PAT_CNT_NAN := 0x538
abbrev PAT_CNT_DEFER := 0x540
abbrev PAT_CNT_VIOL := 0x548
abbrev PAT_PERF_RIDDLE := 0x550
abbrev VEC_STATUS := 0x600
abbrev VEC_CFG := 0x608
abbrev VEC_FTQ := 0x610
abbrev VEC_EP_VALID := 0x618
abbrev VEC_CNT_VIOL := 0x620
abbrev VEC_CNT_CLAMP := 0x628
abbrev VEC_PERF_BUSY := 0x630
abbrev MOVQ_STATUS := 0x700
abbrev MOVQ_CNT_CLAMP := 0x708
abbrev MOVQ_CNT_VIOL := 0x710
abbrev MOVQ_PERF_BYTES := 0x718
/-- `MID_HSCALAR` n at 0x0800 + 8n (R401). -/
abbrev MID_HSCALAR := 0x800

/-! ### Device register space -/

abbrev HOST_STATUS := 0x10000
abbrev HOST_LEASE := 0x10008
abbrev HOST_LEASE_EXP := 0x10010
abbrev HOST_CFG := 0x10018
abbrev HOST_UDP := 0x10020
abbrev HOST_PTP_CFG := 0x10028
abbrev HOST_HEAT := 0x10030
abbrev HOST_HREC_BASE := 0x10038
abbrev HOST_HREC_LIMIT := 0x10040
abbrev HOST_HREC_HEAD := 0x10048
abbrev HOST_HREC_TAIL := 0x10050
abbrev HOST_ILOG_BASE := 0x10058
abbrev HOST_ILOG_LIMIT := 0x10060
abbrev HOST_ILOG_SEQ := 0x10068
abbrev HOST_ILOG_TAIL := 0x10098
abbrev HOST_CNT_VIOL := 0x10070
abbrev HOST_CNT_LOST := 0x10078
abbrev HOST_CNT_BADPKT := 0x10080
abbrev HOST_CNT_AUTHFAIL := 0x10088
abbrev HOST_CNT_EVDROP := 0x10090
abbrev MEM_RGN_BASE := 0x20000
abbrev MEM_RGN_LIMIT := 0x20008
abbrev MEM_RGN_PLACE := 0x20010
abbrev MEM_RGN_CTL := 0x20018
abbrev MEM_FLASK_SPLIT := 0x20800
abbrev MEM_FLASK_CFG := 0x20820
abbrev MEM_THERM_STATUS := 0x20840
abbrev MEM_THERM_CFG := 0x20860
abbrev MEM_VTARGET := 0x20880
abbrev MEM_CNT_VIOL := 0x208C0
abbrev MEM_CNT_RMW := 0x208C8
abbrev MEM_CNT_CORR := 0x208D0
/-- Riser offsets from 0x0003_0000 + 0x1000 × s. -/
abbrev RISER := 0x30000
abbrev RISER_STATUS := 0x000
abbrev RISER_JNL_PHASE := 0x008
abbrev RISER_LOG_BASE := 0x010
abbrev RISER_PSLOT_VALID := 0x018
abbrev RISER_CNT_COMMIT := 0x020
abbrev RISER_CNT_REPEAT := 0x028
abbrev RISER_CNT_ABANDON := 0x030
abbrev RISER_CNT_SKIP := 0x038
abbrev RISER_CNT_CLAMP := 0x040
abbrev RISER_CNT_VIOL := 0x048
abbrev RISER_CNT_REFETCH := 0x050
abbrev RISER_CHK_RETRY := 0x058
abbrev RISER_PERF_BUSY := 0x060
abbrev RISER_SHD_KEY := 0x100
abbrev RISER_SHD_MTID := 0x108
abbrev RISER_SHD_PCB := 0x110
abbrev RISER_SHD_JNL := 0x118
abbrev RISER_SS_BASE := 0x38000
abbrev RISER_SS_LIMIT := 0x38008
abbrev RISER_SS_HEAD := 0x38010
abbrev RISER_SS_TAIL := 0x38018
abbrev RISER_SS_CFG := 0x38020
abbrev RISER_SS_SEQ := 0x38028
abbrev RUN_STATUS := 0x40000
abbrev RUN_TOPO := 0x40008
abbrev RUN_CTO := 0x40010
abbrev RUN_CMB_LIMIT := 0x40018
abbrev RUN_BUF_FREE := 0x40020
abbrev RUN_TIME_CFG := 0x40028
abbrev RUN_TIME_STATUS := 0x40030
abbrev RUN_TIME_OFFSET := 0x40038
abbrev RUN_CNT_VIOL := 0x40040
abbrev RUN_CNT_DROP := 0x40048
abbrev RUN_CNT_CLAMP := 0x40050
abbrev RUN_CNT_SAT := 0x40058
abbrev RUN_CNT_CTO := 0x40060
abbrev RUN_CNT_REROUTE := 0x40068
abbrev RUN_PORT_STATUS := 0x40100
abbrev RUN_PORT_CTL := 0x40108
abbrev RUN_PORT_CNT := 0x40200
abbrev RUN_GRP := 0x44000
abbrev RUN_ETAB_HDR := 0xD0000
abbrev RUN_ETAB_ENT := 0xD0040
abbrev SVC_CFG := 0x50000
abbrev SVC_MODE := 0x50008
abbrev SVC_CAPACITY := 0x50010
abbrev SVC_CTX_BASE := 0x50018
abbrev SVC_REMAP := 0x50020
abbrev SVC_DROP_BASE := 0x50028
abbrev SVC_DROP_LIMIT := 0x50030
abbrev SVC_DROP_HEAD := 0x50038
abbrev SVC_DROP_LOST := 0x50040
abbrev SVC_FLOG_HEAD := 0x50048
abbrev SVC_INGOT := 0x50050
abbrev SVC_TEST := 0x50058
abbrev SVC_STACK_CTL := 0x50080
abbrev SVC_HSCALAR := 0x50100
abbrev SVC_MOULD_CTL := 0x50400
abbrev SVC_MOULD_LOAD := 0x50C00
abbrev SVC_FLOG := 0xF0000
abbrev PWR_STATUS := 0x60000
abbrev PWR_INPUT := 0x60008
abbrev PWR_BANK := 0x60010
abbrev PWR_RST_CAUSE := 0x60018
abbrev PWR_BOOT_STATUS := 0x60020
abbrev PWR_OPT := 0x60028
abbrev PWR_QSAVE := 0x60030
abbrev PWR_SVN_COMMIT := 0x60038
abbrev PWR_FLASH_SRC := 0x60040
abbrev PWR_FLASH_CTL := 0x60048
abbrev PWR_KEY_HASH := 0x60080
abbrev PWR_KEY_CTL := 0x600A0
abbrev PWR_BKP := 0x60100
abbrev PWR_IDENT := 0x62000
abbrev PWR_ATTEST := 0x64000
abbrev PWR_RETAIN := 0x70000
abbrev PWR_QIMG := 0x90000

end Reg

/-- The mould register space by offset; `none` for an unused offset (R127, R162, R193, R211, R401). -/
def mouldRow (off : Nat) : Option RegRow :=
  if off % 8 ≠ 0 then none
  else if off ≤ Reg.MID_TEST then some (roRow 0)
  else if Reg.CTL_STATUS ≤ off ∧ off ≤ Reg.CTL_PERF_WAIT then some (roRow 0)
  else if off = Reg.MENG_CFG then some { reset := 0, rw := mask 20 16 ||| mask 12 8, w1c := 0, wo := 0, ro := mask 1 0 }
  else if off = Reg.MENG_FLAGS_STICKY then some (w1cRow (mask 7 0))
  else if off = Reg.MENG_SAT then some (w1cRow (mask 7 0))
  else if off = Reg.MENG_SPILL_BASE ∨ off = Reg.MENG_SPILL_LIMIT then some (rwRow 0 (mask 47 16))
  else if Reg.MENG_STATUS ≤ off ∧ off ≤ Reg.MENG_CHK_RETRY then some (roRow 0)
  else if Reg.PAT_STATUS ≤ off ∧ off ≤ Reg.PAT_PERF_RIDDLE then some (roRow 0)
  else if off = Reg.VEC_CFG then some (rwRow 1 1)
  else if Reg.VEC_STATUS ≤ off ∧ off ≤ Reg.VEC_PERF_BUSY then some (roRow 0)
  else if Reg.MOVQ_STATUS ≤ off ∧ off ≤ Reg.MOVQ_PERF_BYTES then some (roRow 0)
  else if Reg.MID_HSCALAR ≤ off ∧ off < Reg.MID_HSCALAR + 128 then some (roRow 0)
  else none

/-- Host port (R373, R374). -/
def hostRow (off : Nat) : Option RegRow :=
  if off = Reg.HOST_CFG then
    some { reset := 0x0000006403E80000, rw := mask 47 8 ||| mask 1 0, w1c := 0, wo := 0, ro := mask 2 2 }
  else if off = Reg.HOST_UDP then some (rwRow 0xB9E4 (mask 15 0))
  else if off = Reg.HOST_HREC_BASE ∨ off = Reg.HOST_HREC_LIMIT ∨ off = Reg.HOST_ILOG_BASE ∨ off = Reg.HOST_ILOG_LIMIT then
    some (rwRow 0 (mask 47 0))
  else if Reg.HOST_STATUS ≤ off ∧ off ≤ Reg.HOST_ILOG_TAIL then some (roRow 0)
  else none

/-- Memory system (R265, R266, R274, R281). `HINT` is the only field of `MEM_FLASK_CFG` (R276). -/
def memRow (off : Nat) : Option RegRow :=
  if off < 0x20800 then
    match off % 32 with
    | 0 | 8 => some (rwRow 0 (mask 47 16))
    | 16 => some (rwRow 0 (mask 63 62 ||| mask 58 56 ||| mask 21 0))
    | _ => some { reset := 0x100, rw := mask 63 63 ||| mask 7 6 ||| mask 3 0, w1c := 0, wo := 0,
                  ro := mask 62 61 ||| mask 15 8 }
  else if off < 0x20820 then
    some { reset := 0x808, rw := mask 4 0, w1c := 0, wo := 0, ro := mask 17 16 ||| mask 12 8 }
  else if off = Reg.MEM_FLASK_CFG then some (rwRow 0 (mask 1 0))
  else if Reg.MEM_THERM_STATUS ≤ off ∧ off < Reg.MEM_THERM_CFG then some (roRow 0x02EE0000)
  else if off = Reg.MEM_THERM_CFG then
    some { reset := 0x645F0000, rw := mask 31 16, w1c := 0, wo := 0, ro := mask 0 0 }
  else if Reg.MEM_VTARGET ≤ off ∧ off < 0x208A0 then some (rwRow 0x2EE (mask 9 0))
  else if off = Reg.MEM_CNT_VIOL ∨ off = Reg.MEM_CNT_RMW ∨ off = Reg.MEM_CNT_CORR then some (roRow 0)
  else none

/-- One riser's registers, by offset within its range (R309, R310). -/
def riserRow (o : Nat) : Option RegRow :=
  if o = Reg.RISER_LOG_BASE then some (rwRow 0 (mask 47 0))
  else if o ≤ Reg.RISER_PERF_BUSY then some (roRow 0)
  else if 0x100 ≤ o ∧ o < 0x900 then
    match o % 32 with
    | 0 => some (rwRow 0 (mask 63 60 ||| mask 47 0))
    | _ => some (rwRow 0 (mask 47 0))
  else none

/-- The shared stream registers (R309). -/
def streamRow (off : Nat) : Option RegRow :=
  if off = Reg.RISER_SS_BASE ∨ off = Reg.RISER_SS_LIMIT ∨ off = Reg.RISER_SS_TAIL then some (rwRow 0 (mask 47 0))
  else if off = Reg.RISER_SS_CFG then some { reset := 0, rw := mask 0 0, w1c := 0, wo := 0, ro := mask 1 1 }
  else if off = Reg.RISER_SS_HEAD ∨ off = Reg.RISER_SS_SEQ then some (roRow 0)
  else none

/-- Group entry word w (R328). -/
def groupRow (w : Nat) : RegRow :=
  if w = 0 then rwRow 0 (mask 54 46 ||| mask 44 21 ||| mask 0 0)
  else if w ≤ 4 then rwRow 0 (mask 63 0)
  else roRow 0

/-- Expert-table offset within its 8 KiB (R339, R346). -/
def etabRow (o : Nat) : Option RegRow :=
  if o = 0 then some (rwRow 0 (mask 39 28 ||| mask 23 0))
  else if 0x40 ≤ o ∧ o < 0x40 + 32 * 128 then
    match o % 32 with
    | 0 | 8 => some (rwRow 0 (mask 63 0))
    | 16 => some (rwRow 0 (mask 47 0))
    | _ => some (roRow 0)
  else none

/-- Runner (R346, R347). -/
def runnerRow (off : Nat) : Option RegRow :=
  if off = Reg.RUN_CTO then some (rwRow 0x2710 (mask 31 0))
  else if off = Reg.RUN_CMB_LIMIT then some (rwRow 0x60 (mask 7 0))
  else if off = Reg.RUN_BUF_FREE then some (roRow 0xC00000)
  else if off = Reg.RUN_TIME_CFG then some (rwRow 0 (mask 1 0))
  else if off ≤ Reg.RUN_CNT_REROUTE then some (roRow 0)
  else if 0x40100 ≤ off ∧ off < 0x40200 then
    if off % 16 = 8 then some (rwRow 1 (mask 0 0)) else some (roRow 0)
  else if 0x40200 ≤ off ∧ off < 0x40280 then some (roRow 0)
  else if 0x44000 ≤ off ∧ off < 0x48000 then some (groupRow (off % 64 / 8))
  else none

/-- Service (R404, R405). -/
def serviceRow (off : Nat) : Option RegRow :=
  if off = Reg.SVC_CFG then some { reset := 1, rw := mask 0 0, w1c := 0, wo := 0, ro := mask 1 1 }
  else if off = Reg.SVC_CTX_BASE then some (rwRow 0 (mask 63 63 ||| mask 47 0))
  else if off = Reg.SVC_REMAP then some (rwRow 0 (mask 16 0))
  else if off = Reg.SVC_DROP_BASE ∨ off = Reg.SVC_DROP_LIMIT then some (rwRow 0 (mask 47 0))
  else if off = Reg.SVC_INGOT then
    some { reset := 2, rw := 0, w1c := 0, wo := mask 11 8, ro := mask 17 16 ||| mask 1 0 }
  else if off = Reg.SVC_TEST then some (rwRow 0 (mask 0 0))
  else if off ≤ 0x50048 then some (roRow 0)
  else if 0x50080 ≤ off ∧ off < 0x500C0 then
    some { reset := 1, rw := mask 0 0, w1c := 0, wo := 0, ro := mask 7 4 }
  else if 0x50100 ≤ off ∧ off < 0x50180 then some (rwRow 0 (mask 63 0))
  else if 0x50400 ≤ off ∧ off < 0x50C00 then
    some { reset := 1, rw := mask 0 0, w1c := 0, wo := 0, ro := mask 48 40 ||| mask 6 4 }
  else if 0x50C00 ≤ off ∧ off < 0x51400 then some (rwRow 0 (mask 58 0))
  else none

/-- Power and boot (R430, R431). -/
def powerRow (off : Nat) : Option RegRow :=
  if off = Reg.PWR_RST_CAUSE then some (roRow 0x100000001)
  else if off = Reg.PWR_OPT then
    some { reset := 0x30200, rw := mask 19 8 ||| mask 0 0, w1c := 0, wo := 0, ro := mask 1 1 }
  else if off = Reg.PWR_SVN_COMMIT then some { reset := 0, rw := 0, w1c := 0, wo := mask 6 0, ro := 0 }
  else if off = Reg.PWR_FLASH_SRC then some (rwRow 0 (mask 47 0))
  else if off = Reg.PWR_FLASH_CTL then
    some { reset := 0, rw := mask 31 0, w1c := 0, wo := mask 63 63, ro := mask 62 56 }
  else if off ≤ Reg.PWR_QSAVE then some (roRow 0)
  else if 0x60080 ≤ off ∧ off < 0x600A0 then some (rwRow 0 (mask 63 0))
  else if off = Reg.PWR_KEY_CTL then some { reset := 0, rw := mask 9 8, w1c := 0, wo := mask 5 4, ro := 0 }
  else if 0x60100 ≤ off ∧ off < 0x60200 then some (rwRow 0 (mask 63 0))
  else if 0x62000 ≤ off ∧ off < 0x68000 then some (roRow 0)
  else if 0x70000 ≤ off ∧ off < 0x90000 then some (rwRow 0 (mask 63 0))
  else if 0x90000 ≤ off ∧ off < 0xD0000 then some (roRow 0)
  else none

/-- The device register space by offset (R375); `none` for an unused or unaligned offset. -/
def devRow (off : Nat) : Option RegRow :=
  if off % 8 ≠ 0 then none
  else if off < 0x10000 then none
  else if off < 0x20000 then hostRow off
  else if off < 0x30000 then memRow off
  else if off < 0x38000 then riserRow (off % 0x1000)
  else if off < 0x40000 then streamRow off
  else if off < 0x50000 then runnerRow off
  else if off < 0x60000 then serviceRow off
  else if off < 0xD0000 then powerRow off
  else if off < 0xF0000 then etabRow ((off - 0xD0000) % 0x2000)
  else if off < 0x100000 then some (roRow 0)
  else none

/-- Reset value of a device register (the Reset column). -/
def devReset (off : Nat) : W64 :=
  match devRow off with
  | some r => r.reset
  | none => 0

/-- Reset value of a mould register. -/
def mouldReset (off : Nat) : W64 :=
  match mouldRow off with
  | some r => r.reset
  | none => 0

/-- Offset of region register `base` of region n (R265). -/
def rgnOff (base n : Nat) : Nat := base + 32 * n
/-- Offset of riser s's register o (R309). -/
def riserOff (s o : Nat) : Nat := Reg.RISER + 0x1000 * s + o
/-- Offset of word w of group entry g (R346). -/
def grpOff (g w : Nat) : Nat := Reg.RUN_GRP + 64 * g + 8 * w
/-- Offset of `SVC_MOULD_CTL` g (R404). -/
def mctlOff (g : Nat) : Nat := Reg.SVC_MOULD_CTL + 8 * g
/-- Offset of `SVC_STACK_CTL` s (R404). -/
def sctlOff (s : Nat) : Nat := Reg.SVC_STACK_CTL + 8 * s
/-- Offset of `RUN_PORT_STATUS` p and `RUN_PORT_CTL` p (R346). -/
def pstOff (p : Nat) : Nat := Reg.RUN_PORT_STATUS + 16 * p
def pctlOff (p : Nat) : Nat := Reg.RUN_PORT_CTL + 16 * p

end Sys2Proof.Machine
end

