-- ==== Sys2Proof/Machine/Ops.lean ====
section
/-! DEFINITION. The named operations over sparse collections, memories, mould contexts and registers; counting of
violations; events and the fault log. -/
namespace Sys2Proof.Machine

/-! ## Sparse collections -/

/-- Insert or replace one key, keeping the order. -/
def SMap.ins {α : Type} : SMap α → Nat → α → SMap α
  | [], k, v => [(k, v)]
  | (k', v') :: t, k, v =>
    if k < k' then (k, v) :: (k', v') :: t else if k = k' then (k, v) :: t else (k', v') :: SMap.ins t k v

/-- Set one key; the default `d` is not listed. -/
def SMap.set {α : Type} [DecidableEq α] (d : α) (m : SMap α) (k : Nat) (v : α) : SMap α :=
  if v = d then m.filter (fun p => p.1 ≠ k) else SMap.ins m k v

/-- Keys strictly rising. -/
def SMap.rising {α : Type} : SMap α → Bool
  | [] => true
  | [_] => true
  | (k, _) :: (k', v') :: t => decide (k < k') && SMap.rising ((k', v') :: t)

/-- Canonical form: keys rise strictly and no entry equals the default of its key. -/
def SMap.wf {α : Type} [DecidableEq α] (d : Nat → α) (m : SMap α) : Bool :=
  SMap.rising m && m.all (fun p => decide (p.2 ≠ d p.1))

/-! ## Byte stores -/

/-- The loss epoch of the undefined range that holds an address, if any (R416, R275). -/
def Mem.epochOf (m : Mem) (a : Nat) : Option Nat :=
  match m.undef.find? (fun r => decide (r.1 ≤ a ∧ a < r.2.1)) with
  | some r => some r.2.2
  | none => none

/-- What an unlisted address reads as: zero, or the free byte of a range whose contents are undefined. -/
def Mem.fill (m : Mem) (a : Nat) : Byte :=
  match m.epochOf a with
  | some e => Config.memByte e a
  | none => 0

/-- One byte. -/
def Mem.get (m : Mem) (a : Nat) : Byte :=
  match m.cells.find? (fun c => c.1 == a) with
  | some c => c.2
  | none => m.fill a

/-- Store one byte, keeping the canonical form: a zero in a range with defined contents is not listed. -/
def Mem.put (m : Mem) (a : Nat) (b : Byte) : Mem :=
  { m with cells := if b = 0 ∧ m.epochOf a = none then m.cells.filter (fun c => c.1 ≠ a) else SMap.ins m.cells a b }

/-- `n` bytes from an address, lowest first. -/
def Mem.gets (m : Mem) (a n : Nat) : List Byte := (List.range n).map fun i => m.get (a + i)

/-- Store a list of bytes, first at `a`. -/
def Mem.puts (m : Mem) (a : Nat) : List Byte → Mem
  | [] => m
  | b :: bs => (m.put a b).puts (a + 1) bs

/-- The canonical form of a store: addresses rise strictly; outside undefined ranges no listed byte is zero. -/
def Mem.wf (m : Mem) : Bool :=
  SMap.rising m.cells && m.cells.all (fun c => decide (c.2 ≠ 0) || (m.epochOf c.1).isSome)

/-- The contents of [a, b) become undefined: listed bytes leave, and the range reads as free bytes of `epoch`. -/
def Mem.lose (m : Mem) (a b epoch : Nat) : Mem :=
  { cells := m.cells.filter (fun c => ¬(a ≤ c.1 ∧ c.1 < b)), undef := (a, b, epoch) :: m.undef }

/-- Little-endian number of `n` bytes at an address. -/
def Mem.word (m : Mem) (a n : Nat) : Nat := leNat (m.gets a n)

/-! ## Moulds -/

/-- The context of global mould index g. -/
def State.mould (s : State) (g : Nat) : Mould := SMap.get Mould.reset s.moulds g

def State.setMould (s : State) (g : Nat) (m : Mould) : State :=
  { s with moulds := SMap.set Mould.reset s.moulds g m }

def State.updMould (s : State) (g : Nat) (f : Mould → Mould) : State := s.setMould g (f (s.mould g))

/-- x register; x0 reads zero (R167). -/
def Mould.getX (m : Mould) (r : Nat) : W64 := if r = 0 then 0 else SMap.get 0 m.x r

/-- Write an x register; a write to x0 is discarded (R167). -/
def Mould.setX (m : Mould) (r : Nat) (v : W64) : Mould := if r = 0 then m else { m with x := SMap.set 0 m.x r v }

/-- x(KB + i) for a scalar operand: above x31 the value is 0 (R244, R258). -/
def Mould.kReg (m : Mould) (r : Nat) : W32 := if r < 32 then (m.getX r).setWidth 32 else 0

/-- Predicate; p0 reads 1 (R167). -/
def Mould.getP (m : Mould) (r : Nat) : Bool := r == 0 || m.p.getLsbD r

/-- Write a predicate; a write to p0 is discarded (R167). -/
def Mould.setP (m : Mould) (r : Nat) (b : Bool) : Mould :=
  if r = 0 then m else { m with p := BitVec.ofNat 8 (putBits m.p.toNat r r (b2n b)) }

def Mould.getD (m : Mould) (r : Nat) : W512 := SMap.get voidImage m.d r
def Mould.setD (m : Mould) (r : Nat) (v : W512) : Mould := { m with d := SMap.set voidImage m.d r v }

def Mould.getAcc (m : Mould) (t : Nat) : AccTile := SMap.get AccTile.reset m.acc t
def Mould.setAcc (m : Mould) (t : Nat) (a : AccTile) : Mould := { m with acc := SMap.set AccTile.reset m.acc t a }
def Mould.getEdit (m : Mould) (e : Nat) : Option Edit := SMap.get none m.edit e
def Mould.setEdit (m : Mould) (e : Nat) (v : Option Edit) : Mould := { m with edit := SMap.set none m.edit e v }
def Mould.getEp (m : Mould) (n : Nat) : EpSlot := SMap.get EpSlot.reset m.ep n
def Mould.setEp (m : Mould) (n : Nat) (v : EpSlot) : Mould := { m with ep := SMap.set EpSlot.reset m.ep n v }
def Mould.queue (m : Mould) (q : Nat) : List QEnt := SMap.get [] m.queues q
def Mould.setQueue (m : Mould) (q : Nat) (l : List QEnt) : Mould := { m with queues := SMap.set [] m.queues q l }

/-- Stored value of a mould register. -/
def Mould.reg (m : Mould) (off : Nat) : W64 := SMap.get (mouldReset off) m.regs off
def Mould.setReg (m : Mould) (off : Nat) (v : W64) : Mould := { m with regs := SMap.set (mouldReset off) m.regs off v }
/-- Add to a count register. -/
def Mould.count (m : Mould) (off n : Nat) : Mould := if n = 0 then m else m.setReg off (m.reg off + BitVec.ofNat 64 n)
/-- OR bits into a register. -/
def Mould.orReg (m : Mould) (off : Nat) (v : W64) : Mould := m.setReg off (m.reg off ||| v)

/-- Add to a count register of mould g. -/
def State.mcount (s : State) (g off n : Nat) : State := if n = 0 then s else s.updMould g (·.count off n)

/-! ## Device registers -/

/-- Stored value of a device register. -/
def State.reg (s : State) (off : Nat) : W64 := SMap.get (devReset off) s.regs off
def State.setReg (s : State) (off : Nat) (v : W64) : State := { s with regs := SMap.set (devReset off) s.regs off v }
/-- Field [hi:lo] of a device register. -/
def State.field (s : State) (off hi lo : Nat) : Nat := fld (s.reg off) hi lo
def State.setField (s : State) (off hi lo v : Nat) : State := s.setReg off (setFld (s.reg off) hi lo v)
/-- Add to a count register. -/
def State.count (s : State) (off n : Nat) : State :=
  if n = 0 then s else s.setReg off (s.reg off + BitVec.ofNat 64 n)

/-- The counter that takes a counted access to a device register (R309 and R310, R373, R404, R430: each block's own). -/
def violCounter (off : Nat) : Nat :=
  if 0x20000 ≤ off ∧ off < 0x30000 then Reg.MEM_CNT_VIOL
  else if 0x30000 ≤ off ∧ off < 0x38000 then riserOff ((off - 0x30000) / 0x1000) Reg.RISER_CNT_VIOL
  else if (0x40000 ≤ off ∧ off < 0x50000) ∨ (0xD0000 ≤ off ∧ off < 0xF0000) then Reg.RUN_CNT_VIOL
  else Reg.HOST_CNT_VIOL

/-- Riser s. -/
def State.riser (s : State) (r : Nat) : Riser := SMap.get Riser.reset s.risers r
def State.setRiser (s : State) (r : Nat) (v : Riser) : State := { s with risers := SMap.set Riser.reset s.risers r v }
def State.port (s : State) (p : Nat) : Port := SMap.get Port.reset s.runner.ports p
def State.setPort (s : State) (p : Nat) (v : Port) : State :=
  { s with runner := { s.runner with ports := SMap.set Port.reset s.runner.ports p v } }

/-- A fresh free bit (log entry 3). -/
def State.freshBit (s : State) : Bool × State := (Config.freeBit s.free, { s with free := s.free + 1 })
def State.freshWord (s : State) : W64 × State := (Config.freeWord s.free, { s with free := s.free + 1 })

/-! ## Modes and identity -/

/-- Bit of `SVC_MODE` in force (R400): true is host-assisted. -/
def State.modeBit (s : State) (b : Nat) : Bool := bitOf (s.reg Reg.SVC_MODE) b
/-- Device address of this module (R212, R346). -/
def State.devAddr (s : State) : Nat := s.field Reg.RUN_TOPO 15 0
/-- The running heat, or else the last heat launched (R353, R373). -/
def State.heatNum (s : State) : Nat := s.field Reg.HOST_HEAT 47 0
/-- Rounding context of a tensor in this heat (R44): run seed, heat number, `TID`. -/
def State.rctx (s : State) (tid : Nat) : Num.Ctx := ⟨s.heats.seed, s.heatNum, tid⟩
/-- Comparisons in arithmetic are made (R378). -/
def State.hchk (s : State) : Bool := bitOf (s.reg Reg.SVC_CFG) 0

/-! ## Local memory (R261 to R264) -/

/-- The windows of R261. -/
inductive Window where
  | hbm | flask (c : Nat) | ocache | dmem
  deriving DecidableEq, Repr

def flaskBase : Nat := 0x10000000000
def ocBase : Nat := 0x20000000000
def dmBase : Nat := 0x20100000000
def ocSize : Nat := 0x180000

/-- Window of a local address; none outside every window. -/
def windowOf (a : Nat) : Option Window :=
  if a < 0x10000000000 then some .hbm
  else if a < 0x10100000000 then some (.flask ((a - flaskBase) / 0x40000000))
  else if ocBase ≤ a ∧ a < ocBase + ocSize then some .ocache
  else if dmBase ≤ a ∧ a < dmBase + 0x10000 then some .dmem
  else none

/-- One byte of the local address space as mould g sees it (R262). -/
def State.byteAt (s : State) (g a : Nat) : Byte :=
  match windowOf a with
  | some .ocache => (s.mould g).ocache.get (a - ocBase)
  | some .dmem => (s.mould g).dmem.get (a - dmBase)
  | some _ => s.mem.get a
  | none => 0

/-- Store one byte of the local address space of mould g; outside every window nothing is stored. -/
def State.putByte (s : State) (g a : Nat) (b : Byte) : State :=
  match windowOf a with
  | some .ocache => s.updMould g fun m => { m with ocache := m.ocache.put (a - ocBase) b }
  | some .dmem => s.updMould g fun m => { m with dmem := m.dmem.put (a - dmBase) b }
  | some _ => { s with mem := s.mem.put a b }
  | none => s

def State.bytesAt (s : State) (g a n : Nat) : List Byte := (List.range n).map fun i => s.byteAt g (a + i)

def State.putBytes (s : State) (g a : Nat) : List Byte → State
  | [] => s
  | b :: bs => (s.putByte g a b).putBytes g (a + 1) bs

/-- Little-endian number at a local address. -/
def State.wordAt (s : State) (g a n : Nat) : Nat := leNat (s.bytesAt g a n)

/-- Granules of 512 B that a write of `n` bytes at `a` covers only in part (R264). -/
def partialGranules (a n : Nat) : Nat :=
  if n = 0 then 0 else
    let touched := (a + n - 1) / 512 - a / 512 + 1
    let full := (a + n) / 512 - (a + 511) / 512
    touched - full

/-- Count the read-modify-writes of one contiguous write (R264): in HBM only. -/
def State.rmw (s : State) (a n : Nat) : State :=
  if windowOf a = some .hbm then s.count Reg.MEM_CNT_RMW (partialGranules a n) else s

/-- A contiguous write of mould g, with its read-modify-writes counted. -/
def State.store (s : State) (g a : Nat) (bs : List Byte) : State := (s.rmw a bs.length).putBytes g a bs

/-- The operand-cache range of the term log (R129, R263). -/
def Mould.tlogRange (m : Mould) : Nat × Nat :=
  let b := fld (m.reg Reg.MENG_CFG) 20 16 * 0x10000
  (b, b + fld (m.reg Reg.MENG_CFG) 12 8 * 0x10000)

/-- [a, a + n) of the operand cache touches the term log. -/
def Mould.inTlog (m : Mould) (a n : Nat) : Bool := decide (a < m.tlogRange.2 ∧ m.tlogRange.1 < a + n)

/-! ## Regions (R265 to R268) -/

/-- Region n is allocated. -/
def State.rgnAlloc (s : State) (n : Nat) : Bool := bitOf (s.reg (rgnOff Reg.MEM_RGN_CTL n)) 63
/-- Region n is allocated or its allocation is pending. -/
def State.rgnHeld (s : State) (n : Nat) : Bool := s.rgnAlloc n || bitOf (s.reg (rgnOff Reg.MEM_RGN_CTL n)) 61
def State.rgnBase (s : State) (n : Nat) : Nat := (s.reg (rgnOff Reg.MEM_RGN_BASE n)).toNat
def State.rgnLimit (s : State) (n : Nat) : Nat := (s.reg (rgnOff Reg.MEM_RGN_LIMIT n)).toNat

/-- The allocated region that holds a local address (R267: at most one). -/
def State.regionAt (s : State) (a : Nat) : Option Nat :=
  (List.range 64).find? fun n => s.rgnAlloc n && decide (s.rgnBase n ≤ a ∧ a < s.rgnLimit n)

/-- Does [a, a + n) lie wholly in one allocated region of one of the given windows? -/
def State.inRegion (s : State) (a n : Nat) (ok : Window → Bool) : Bool :=
  match s.regionAt a, windowOf a with
  | some r, some w => ok w && decide (a + n ≤ s.rgnLimit r)
  | _, _ => false

/-- Does [a, a + n) lie wholly in one allocated HBM region? -/
def State.inHbmRegion (s : State) (a n : Nat) : Bool := s.inRegion a n (· == .hbm)

/-! ## Events (R353, R384, R385) -/

/-- A 64 B image from (byte offset, byte count, value) triples. -/
def eventImage (fields : List (Nat × Nat × Nat)) : W512 :=
  BitVec.ofNat 512 (fields.foldl (fun acc f => acc + f.2.2 % 256 ^ f.2.1 * 256 ^ f.1) 0)

/-- `EVT` 1 or 2 (R384). -/
def isFaultEvent (e : W512) : Bool := (e.setWidth 16 : W16) == 1 || (e.setWidth 16 : W16) == 2

/-- Remove the first element that meets a test. -/
def dropFirst {α : Type} (p : α → Bool) : List α → List α
  | [] => []
  | x :: t => if p x then t else x :: dropFirst p t

/-- The channel of a class in a session. -/
def Session.chan (x : Session) (cls : Nat) : Chan :=
  match x.chans.find? (fun c => c.cls == cls) with
  | some c => c
  | none => ⟨cls, 0, [], 0, []⟩

def Session.setChan (x : Session) (c : Chan) : Session := { x with chans := c :: x.chans.filter fun d => d.cls ≠ c.cls }

/-- A session that is open and whose `PSN` values lie below 2⁴⁸: it has not ended (R355). -/
def Session.live (x : Session) : Bool := x.opened && x.chans.all fun c => decide (c.txNext.toNat < 2 ^ 48)

/-- Header of a command. -/
def cmdHdr (i : Instr) : Option CmdHdr :=
  match i with
  | .rdreg c _ => some c
  | .wrreg c _ _ => some c
  | .rdmem c _ _ => some c
  | .leaseAcquire c _ => some c
  | .leaseRenew c _ => some c
  | .leaseRelease c => some c
  | .seed c _ _ _ => some c
  | .launch c _ _ => some c
  | .htail c _ => some c
  | .itail c _ => some c
  | .sscredit c _ => some c
  | .mode c _ _ => some c
  | .resetWarm c => some c
  | .resetIdleBank c => some c
  | .resetStagedBoot c => some c
  | .dataIn c _ _ => some c
  | .bootDataIn c _ _ => some c
  | _ => none

/-- Class of the message that an external input came in (R352). -/
def inputClass (i : Instr) : Nat :=
  match i with
  | .dataIn _ _ _ => 2
  | _ => 1

/-- The 32 B header in network byte order (R350), which is the additional authenticated data. -/
def goengoHeader (p : GoengoPkt) : List Byte :=
  let w0 := p.ver.toNat * 2 ^ 60 + p.cls.toNat * 2 ^ 56 + b2n p.ackv * 2 ^ 55 + b2n p.retx * 2 ^ 54 + b2n p.last * 2 ^ 53
    + p.rsv0.toNat * 2 ^ 48 + p.payload.length % 2 ^ 16 * 2 ^ 32 + p.sid.toNat
  (leBytes 8 w0).reverse ++ (leBytes 8 p.psn.toNat).reverse ++ (leBytes 8 p.ack.toNat).reverse
    ++ (leBytes 8 (p.sack.toNat * 2 ^ 32 + p.rsv3.toNat)).reverse

/-- The nonce of a packet (R355). -/
def goengoNonce (iv : List Byte) (cls psn : Nat) : List Byte :=
  let x := (leBytes 8 (cls * 2 ^ 60 + psn)).reverse
  iv.take 4 ++ (iv.drop 4).zipWith (· ^^^ ·) x

/-- `ACK` of a class in a session: what has been received in order, up to an input that waits for room in the log (R351, R367). -/
def HostPort.ackOf (h : HostPort) (x : Session) (cls : Nat) : Nat :=
  h.waitingIn.foldl (fun a w => match cmdHdr w.2 with
    | some c => if c.peer.isNone && c.sid == x.sid && inputClass w.2 == cls then min a c.psn.toNat else a
    | none => a) (x.chan cls).rxNext.toNat

/-- `SACK`: packets `ACK` + 1 + i received and held. -/
def Chan.sack (c : Chan) (ack : Nat) : W32 :=
  BitVec.ofNat 32 ((List.range 32).foldl (fun a i => if c.rxHave.any fun q => q.1 == ack + 1 + i then a + 2 ^ i else a) 0)

/-- The datagram of a packet to the host (R350, R355): its header, and the payload sealed with the device-to-host key. -/
def HostPort.wire (h : HostPort) (x : Session) (cls : Nat) (retx last : Bool) (psn : W64) (payload : List Byte) : List Byte :=
  let ack := h.ackOf x cls
  let head := goengoHeader
    { ver := 1, cls := BitVec.ofNat 4 cls, ackv := true, retx := retx, last := last, rsv0 := 0, sid := x.sid, psn := psn,
      ack := BitVec.ofNat 64 ack, sack := (x.chan cls).sack ack, rsv3 := 0, payload := payload, tag := [] }
  let c := Config.gcmSeal ((x.keys.drop 32).take 32) (goengoNonce ((x.keys.drop 76).take 12) cls psn.toNat) head payload
  head ++ c.1 ++ c.2

def HostPort.session (h : HostPort) (sid : W32) : Option Session := h.sessions.find? fun x => x.live && x.sid == sid

/-- One packet of a class leaves in a session: it takes the next `PSN` and waits for its acknowledgement (R350, R351). -/
def HostPort.push (h : HostPort) (now : W64) (sid : W32) (cls : Nat) (it : TxItem) (last : Bool) (payload : List Byte) : HostPort :=
  match h.session sid with
  | none => h
  | some x =>
    let c := x.chan cls
    let y := x.setChan { c with txNext := c.txNext + 1, unacked := c.unacked ++ [⟨c.txNext, last, it, payload, now⟩] }
    { h with sessions := h.sessions.map fun z => if z.sid = sid then y else z
             out := h.out ++ [.packet sid cls (h.wire x cls false last c.txNext payload)] }

/-- A message of a class, in packets of at most 8,192 B (R350). -/
def HostPort.transmit (h : HostPort) (now : W64) (sid : W32) (cls : Nat) (it : TxItem) (bs : List Byte) : HostPort :=
  let n := max 1 (cdiv bs.length 8192)
  (List.range n).foldl (fun h i => h.push now sid cls it (i + 1 == n) ((bs.drop (8192 * i)).take 8192)) h

/-- A packet that only acknowledges: `LEN` 0, at the next `PSN` without taking it (R351, log entry 75). -/
def HostPort.acknowledge (h : HostPort) (sid : W32) (cls : Nat) : HostPort :=
  match h.session sid with
  | none => h
  | some x => { h with out := h.out ++ [.packet sid cls (h.wire x cls false false (x.chan cls).txNext [])] }

def State.setSessions (s : State) (l : List Session) : State := { s with host := { s.host with sessions := l } }

/-- A message leaves in one session. -/
def State.transmit (s : State) (sid : W32) (cls : Nat) (it : TxItem) (bs : List Byte) : State :=
  { s with host := s.host.transmit s.cnt sid cls it bs }

def State.acknowledge (s : State) (sid : W32) (cls : Nat) : State := { s with host := s.host.acknowledge sid cls }

/-- Store an event for the host (R352): at most 1,024; the oldest event that is not a fault is dropped and counted. -/
def State.postEvent (s : State) (e : W512) : State :=
  let all := s.host.events ++ [e]
  let send (h : HostPort) (x : Session) : HostPort := h.transmit s.cnt x.sid 4 (.event e) (leBytes 64 e.toNat)
  let s := { s with host := (s.host.sessions.filter Session.live).foldl send { s.host with out := s.host.out ++ [HostOut.event e] } }
  if all.length ≤ 1024 ∨ all.all isFaultEvent then { s with host := { s.host with events := all } }
  else { s with host := { s.host with events := dropFirst (fun x => !isFaultEvent x) all } }.count Reg.HOST_CNT_EVDROP 1

/-- An event other than a fault event (R353): `EVT`, `UNIT`, `HEAT`, and the bytes from 24 on. -/
def State.eventOf (s : State) (heat evt unit : Nat) (fields : List (Nat × Nat × Nat)) : State :=
  s.postEvent (eventImage ([(0, 2, evt), (4, 2, unit), (8, 6, heat), (16, 8, s.cnt.toNat)] ++ fields))

def State.event (s : State) (evt unit : Nat) (fields : List (Nat × Nat × Nat)) : State := s.eventOf s.heatNum evt unit fields

/-- Run at an effect stamp (R357): every stamp taken meanwhile is that one. -/
def State.at_ (s : State) (t : W64) (f : State → State) : State := { f { s with cnt := t } with cnt := s.cnt }

/-- Outcome classes (R379). -/
inductive FClass where
  | masked | degraded | aborted | fatal
  deriving DecidableEq, Repr

def FClass.code : FClass → Nat
  | .masked => 1 | .degraded => 2 | .aborted => 3 | .fatal => 4

/-- What a fault event says (R384); `flags` holds `INJECT` [0], `SECOND` [1], `HOSTWAIT` [2]. -/
structure FaultInfo where
  mech : Nat
  unit : Nat
  cls : FClass
  action : Nat
  inject : Bool := false
  second : Bool := false
  hostwait : Bool := false
  detail : Nat := 0
  deriving DecidableEq, Repr

/-- A heat runs (R374). -/
def State.heatRuns (s : State) : Bool := bitOf (s.reg Reg.HOST_STATUS) 3

/-- Recovery from an earlier fault has not completed (R376, R384): a riser's resumption is due, or the work of a failed mould
has not reached `ENDED` in the running heat (R390 step 6). -/
def State.recovering (s : State) : Bool :=
  s.risers.any (fun r => r.2.recover) ||
    (s.heatRuns && (List.range 256).any fun g =>
      s.field (mctlOff g) 6 4 == 4 && (s.mould g).reg Reg.MID_HEAT_STATE != 2)

/-- Append a fault event to the fault log, the host's store and the faults of the heat (R384, R385): `FSEQ` counts events
from 0. A fault of classes 2 to 4 is an alert (R443). -/
def State.logFault (s : State) (f : FaultInfo) (n : Nat) : State :=
  let flags := b2n f.inject + 2 * b2n f.second + 4 * b2n f.hostwait
  let e := eventImage [(0, 2, if f.cls = .masked then 2 else 1), (2, 1, f.mech), (3, 1, flags), (4, 2, f.unit),
    (6, 1, f.cls.code), (7, 1, f.action), (8, 6, s.heatNum), (16, 8, s.cnt.toNat), (24, 8, n), (32, 16, f.detail),
    (48, 8, s.pwr.fseq)]
  let i := s.pwr.fseq % 1024
  let s := (List.range 8).foldl
    (fun s w => s.setReg (Reg.SVC_FLOG + 64 * i + 8 * w) ((e >>> (64 * w)).setWidth 64)) s
  let s := s.setReg Reg.SVC_FLOG_HEAD (BitVec.ofNat 64 ((s.pwr.fseq + 1) % 1024))
  let s := { s with pwr := { s.pwr with fseq := s.pwr.fseq + 1,
                                        alert := if f.cls == FClass.masked then s.pwr.alert else s.pwr.alert ||| 1 },
                    heats := { s.heats with faults := s.heats.faults ++ [e], fatal := s.heats.fatal || f.cls == FClass.fatal,
                                            injected := s.heats.injected || f.inject } }
  s.postEvent e

/-- Report a fault (R384). Masked faults of one unit and mechanism are merged: at most one event per millisecond, with
the number of events it stands for and `INJECT` if any of them was injected (R228); faults of classes 2 to 4 are never merged. -/
def State.raiseFault (s : State) (f : FaultInfo) : State :=
  let f := { f with second := f.second || s.recovering }
  if f.cls ≠ .masked then s.logFault f 1
  else
    let mine (e : MaskedFault) : Bool := e.unit == f.unit && e.mech == f.mech
    let rest := s.pwr.masked.filter fun e => !mine e
    let set (t : W64) (n : Nat) (inj : Bool) : State :=
      { s with pwr := { s.pwr with masked := ⟨f.unit, f.mech, t, n, f.action, inj, f.detail⟩ :: rest },
               heats := { s.heats with injected := s.heats.injected || f.inject } }
    match s.pwr.masked.find? mine with
    | some e =>
      let inj := f.inject || (e.n != 0 && e.inject)
      if s.cnt.toNat < e.since.toNat + 1000000 then set e.since (e.n + 1) inj
      else (set s.cnt 0 false).logFault { f with inject := inj } (e.n + 1)
    | none => (set s.cnt 0 false).logFault f 1

/-- Masked faults that have waited their millisecond are reported. -/
def State.flushMasked (s : State) : State :=
  let due (e : MaskedFault) : Bool := e.n != 0 && decide (e.since.toNat + 1000000 ≤ s.cnt.toNat)
  (s.pwr.masked.filter due).foldl (fun s e => s.logFault
      { mech := e.mech, unit := e.unit, cls := .masked, action := e.action, inject := e.inject, second := s.recovering,
        detail := e.detail } e.n)
    { s with pwr := { s.pwr with masked := s.pwr.masked.map fun e => if due e then { e with since := s.cnt, n := 0 } else e } }

/-- `UNIT` codes of R384. -/
def unitRiser (s : Nat) : Nat := 0x100 + s
def unitStack (s : Nat) : Nat := 0x210 + s
def unitPort (p : Nat) : Nat := 0x310 + p
def unitHost : Nat := 0x400
def unitMp : Nat := 0x500
def unitSeq (c : Nat) : Nat := 0x600 + c

/-- Message of the fabric or of the host port. -/
def State.send (s : State) (m : FabMsg) : State := { s with runner := { s.runner with out := s.runner.out ++ [m] } }
def State.toHost (s : State) (m : HostOut) : State := { s with host := { s.host with out := s.host.out ++ [m] } }

/-! ## The pair (R166 to R173, R200, R201) -/

/-- The guard of R200. -/
def guardTrue (h : Hdr) (m : Mould) : Bool := m.getP h.gpred.toNat != h.gneg

/-- The pair of this index takes an instruction now: released, not halted, not stopped, and nothing waits in the issue
stage. -/
def Mould.issues (m : Mould) : Bool := m.running && !m.halted && !m.stopped && (m.wait == .none)

/-- Advance the PC by n instructions (R167: 13 bits). -/
def Mould.advance (m : Mould) : Mould := { m with pc := m.pc + 1 }

/-- One instruction of the pair (R200, R201): while the pair cannot issue, nothing happens; with a false guard it only
retires; otherwise a reserved field is counted once and `f` is the instruction's effect on the mould whose PC has moved
past it. -/
def pairStep (h : Hdr) (s : State) (f : State → State) : State :=
  let g := h.m.toNat
  let m := s.mould g
  if !m.issues then s
  else if !guardTrue h m then s.setMould g m.advance
  else f (s.setMould g (m.advance.count Reg.CTL_CNT_VIOL (b2n h.rsv)))

/-- An instruction of the pair that only touches its own mould. -/
def pairLocal (h : Hdr) (s : State) (f : Mould → Mould) : State :=
  pairStep h s fun s => s.updMould h.m.toNat f

/-- The mould takes a launch that has reached it. -/
def Mould.takeLaunch (m : Mould) (h : Nat) : Mould :=
  { (m.setReg Reg.MID_HEAT (BitVec.ofNat 64 h)).setReg Reg.MID_HEAT_STATE 1 with launched := none }

/-- Steps of scratchpad in force in crucible c (R274). -/
def State.scratchSteps (s : State) (c : Nat) : Nat := s.field (Reg.MEM_FLASK_SPLIT + 8 * c) 12 8
def stepBytes : Nat := 0x4000000
def flaskStart (c : Nat) : Nat := flaskBase + 0x40000000 * c

/-- No mould of crucible c runs a heat (R275). -/
def State.crucibleIdle (s : State) (c : Nat) : Bool :=
  (List.range 64).all fun i => (s.mould (64 * c + i)).reg Reg.MID_HEAT_STATE != 1

/-- An allocated or pending region reaches beyond the first `k` steps of crucible c's flask. -/
def State.flaskUsed (s : State) (c k : Nat) : Bool :=
  (List.range 64).any fun n => s.rgnHeld n && windowOf (s.rgnBase n) == some (.flask c)
    && decide (flaskStart c + stepBytes * k < s.rgnLimit n)

/-- The spill area of a context lies in the first `old` steps of crucible c's scratchpad and passes the first `k` (R129, R275). -/
def Mould.spillLost (m : Mould) (c old k : Nat) : Bool :=
  let a := (m.reg Reg.MENG_SPILL_BASE).toNat
  let b := (m.reg Reg.MENG_SPILL_LIMIT).toNat
  decide (flaskStart c ≤ a ∧ a < b ∧ b ≤ flaskStart c + stepBytes * old ∧ flaskStart c + stepBytes * k < b)

/-- A pending split takes effect, or is refused (R275): scratchpad bytes gained hold no defined value, and a spill area that is cut
off has size zero from then on. -/
def State.splitApply (s : State) (c : Nat) : State :=
  let off := Reg.MEM_FLASK_SPLIT + 8 * c
  let old := s.scratchSteps c
  let k := s.field off 4 0
  if !bitOf (s.reg off) 16 || !s.crucibleIdle c then s
  else if k < old && s.flaskUsed c k then s.setField off 17 16 2
  else
    let s := (s.setField off 17 16 0).setField off 12 8 k
    if k ≤ old then
      { s with moulds := s.moulds.map fun e =>
          if e.1 / 64 = c ∧ e.2.spillLost c old k then (e.1, { e.2 with spillCut := true }) else e }
    else { s with mem := s.mem.lose (flaskStart c + stepBytes * old) (flaskStart c + stepBytes * k) s.epoch, epoch := s.epoch + 1 }

/-- A launch that has reached mould g is taken (R223, R365): a split that waits takes effect first (R275), and the state becomes
`RUNNING`. -/
def State.takeLaunch (s : State) (g n : Nat) : State := (s.splitApply (g / 64)).updMould g fun m => m.takeLaunch n

/-- A tensor, move, check or synchronisation instruction (R223): outside `RUNNING` it waits in the issue stage, unless a
launch has already reached the mould. -/
def pairHeat (h : Hdr) (i : Instr) (s : State) (f : State → State) : State :=
  let g := h.m.toNat
  let m := s.mould g
  if m.issues && guardTrue h m && m.reg Reg.MID_HEAT_STATE != 1 then
    match m.launched with
    | some n => pairStep h (s.takeLaunch g n) f
    | none => s.setMould g { m with wait := .heat i }
  else pairStep h s f

end Sys2Proof.Machine
end

