-- ==== Sys2Proof/Machine/Flags.lean ====
section
/-! DEFINITION. Flag computations: the condition codes of R206 and the product flags of R124. -/
namespace Sys2Proof.Machine

/-- Condition codes of R206; codes 0xA to 0xF are reserved. -/
def condTrue (c : Nat) (a b : W64) : Bool :=
  let x : W32 := a.setWidth 32
  let y : W32 := b.setWidth 32
  match c with
  | 0 => a == b
  | 1 => a != b
  | 2 => a.slt b
  | 3 => !a.slt b
  | 4 => a.ult b
  | 5 => !a.ult b
  | 6 => Fp32.cmp 0 x y
  | 7 => Fp32.cmp 2 x y
  | 8 => Fp32.cmp 3 x y
  | 9 => Fp32.cmp 6 x y
  | _ => false

/-- A reserved condition code is counted once (R206). -/
def condReserved (c : Nat) : Nat := b2n (decide (9 < c))

/-- The flags of R124 that a product or a write-back gathers. -/
structure MFlags where
  capOverflow : Bool := false
  sat : Bool := false
  ovfWrite : Bool := false
  ovfRecomp : Bool := false
  clamp : Bool := false
  multiBand : Bool := false
  viol : Bool := false
  nanOut : Bool := false
  deriving DecidableEq, Repr

/-- `MENG_FLAGS` image of the flags (R124). -/
def MFlags.bits (f : MFlags) : W64 :=
  BitVec.ofNat 64 (b2n f.capOverflow + 2 * b2n f.sat + 4 * b2n f.ovfWrite + 8 * b2n f.ovfRecomp + 16 * b2n f.clamp
    + 32 * b2n f.multiBand + 64 * b2n f.viol + 128 * b2n f.nanOut)

def MFlags.or (a b : MFlags) : MFlags :=
  { capOverflow := a.capOverflow || b.capOverflow, sat := a.sat || b.sat, ovfWrite := a.ovfWrite || b.ovfWrite,
    ovfRecomp := a.ovfRecomp || b.ovfRecomp, clamp := a.clamp || b.clamp, multiBand := a.multiBand || b.multiBand,
    viol := a.viol || b.viol, nanOut := a.nanOut || b.nanOut }

/-- A product or write-back retires: `MENG_FLAGS` takes its flags and the sticky register their OR (R124). -/
def Mould.recordFlags (m : Mould) (f : MFlags) : Mould :=
  (m.setReg Reg.MENG_FLAGS f.bits).orReg Reg.MENG_FLAGS_STICKY f.bits

end Sys2Proof.Machine
end

