-- ==== Sys2Proof/Machine/Operands.lean ====
section
/-! DEFINITION. Tensor descriptors (R71 to R86): the image and its fields, validation, and every element access through a
`DENSE` or `PLANAR` descriptor, with block scales (R35 to R39), bit planes (R41 to R43) and zero bitmaps (R77 to R79). -/
namespace Sys2Proof.Machine

open Sys2Proof.Num

/-! ## Images -/

/-- Field [hi:lo] of word w of an image. -/
def imgFld (d : W512) (w hi lo : Nat) : Nat := bits d.toNat (64 * w + hi) (64 * w + lo)
/-- Image with field [hi:lo] of word w replaced. -/
def imgSet (d : W512) (w hi lo v : Nat) : W512 := BitVec.ofNat 512 (putBits d.toNat (64 * w + hi) (64 * w + lo) v)

/-- Extent k as supplied (R71). -/
def imgExt (d : W512) (k : Nat) : Nat := imgFld d (2 + k / 2) (32 * (k % 2) + 31) (32 * (k % 2))
def imgSetExt (d : W512) (k v : Nat) : W512 := imgSet d (2 + k / 2) (32 * (k % 2) + 31) (32 * (k % 2)) v
/-- Stride k, 1 to 5, as supplied (R71: `DESC.STR5` is the low half of W7). -/
def imgStr (d : W512) (k : Nat) : Nat := imgFld d (5 + (k - 1) / 2) (32 * ((k - 1) % 2) + 31) (32 * ((k - 1) % 2))
def imgSetStr (d : W512) (k v : Nat) : W512 := imgSet d (5 + (k - 1) / 2) (32 * ((k - 1) % 2) + 31) (32 * ((k - 1) % 2)) v
def imgTid (d : W512) : Nat := imgFld d 0 23 0
def imgRegion (d : W512) : Nat := imgFld d 0 49 44
def imgDev (d : W512) : Nat := imgFld d 1 63 48
def imgBase (d : W512) : Nat := imgFld d 1 47 0

/-- Extents of an image, void or not: 1 at or above `RANK` (R82, R216). -/
def imgExts (d : W512) : List Nat :=
  (List.range 6).map fun k => if k < imgFld d 0 59 57 then imgExt d k else 1

/-- Layouts of R72. -/
inductive Layout where
  | dense | planar | sparse
  deriving DecidableEq, Repr

/-- A valid descriptor, decoded (R71 to R73): extents and strides of dimensions at or above `RANK` are 1 and 0. `planes` is
how many top planes a read of a planar view takes (R43, R216): no field of an image or an instruction chooses fewer than
all, so `viewOf` gives all (log entry 68). -/
structure View where
  fmt : Fmt
  planes : Nat
  layout : Layout
  gsize : Nat
  blk : Nat
  mx : Bool
  region : Nat
  gcap : Nat
  zbm : Bool
  alias_ : Bool
  tid : Nat
  dev : Nat
  base : Nat
  soff : Nat
  ext : List Nat
  str : List Nat
  deriving DecidableEq, Repr

/-- Block size in elements of a `BLK` code, 0 for none (R72). -/
def blkSize (c : Nat) : Nat :=
  match c with
  | 1 => 16 | 2 => 32 | 3 => 64 | 4 => 128
  | _ => 0

/-- The fields of an image read as those of a tensor of format f. -/
def imgView (f : Fmt) (d : W512) : View :=
  let r := imgFld d 0 59 57
  let lay : Layout := match imgFld d 0 56 55 with
    | 0 => .dense | 1 => .planar | _ => .sparse
  { fmt := f, planes := f.width, layout := lay, gsize := if imgFld d 0 54 54 = 1 then 4096 else 512,
    blk := blkSize (imgFld d 0 53 51), mx := imgFld d 0 50 50 = 1, region := imgRegion d,
    gcap := imgFld d 0 43 40, zbm := imgFld d 0 39 39 = 1, alias_ := imgFld d 0 38 38 = 1, tid := imgTid d,
    dev := imgDev d, base := imgBase d, soff := imgFld d 7 63 32,
    ext := (List.range 6).map fun k => if k < r then imgExt d k else 1,
    str := (List.range 5).map fun k => if k + 1 < r then imgStr d (k + 1) else 0 }

/-- A descriptor image as an operand: none when it is void (R82). -/
def viewOf (d : W512) : Option View :=
  match Fmt.ofCode (imgFld d 0 63 60) with
  | none => none
  | some f => if imgFld d 0 31 24 ≠ 0 then none else some (imgView f d)

def View.e (v : View) (k : Nat) : Nat := v.ext.getD k 1
/-- Stride of dimension k, 1 to 5, in bytes. -/
def View.sb (v : View) (k : Nat) : Nat := 64 * v.str.getD (k - 1) 0

/-- Sum of a measure over a list. -/
def totalBy {α : Type} (f : α → Nat) (l : List α) : Nat := l.foldl (fun a x => a + f x) 0

def product (l : List Nat) : Nat := l.foldl (· * ·) 1

/-- Number of runs (R77). -/
def View.nruns (v : View) : Nat := product (v.ext.drop 1)
/-- Elements in the logical shape. -/
def View.count (v : View) : Nat := product v.ext

/-- Run length RL (R76). -/
def runLen (f : Fmt) (lay : Layout) (gsize ext0 : Nat) : Nat :=
  match lay with
  | .planar => cdiv ext0 gsize * f.width * gsize / 8
  | _ => roundup64 (cdiv (ext0 * f.width) 8)

/-- Bytes of a scale run and of a bitmap run (R77). -/
def srl (ext0 b : Nat) : Nat := if b = 0 then 0 else roundup64 (cdiv ext0 b)
def zrl (ext0 : Nat) : Nat := roundup64 (cdiv ext0 8)

/-! ## Validation (R80, R81) -/

def narrowPlanar (f : Fmt) : Bool := f == .e3m2 || f == .e2m3 || f == .e2m1 || f == .int4
def mayPlanar (f : Fmt) : Bool := narrowPlanar f || f == .e5m2 || f == .e4m3 || f == .int8
def sparseFmt (f : Fmt) : Bool := mayPlanar f || f == .e8m7 || f == .e6m9 || f == .e5m10

/-- Insert into a list of pairs in rising order of the first, then the second. -/
def insPair (p : Nat × Nat) : List (Nat × Nat) → List (Nat × Nat)
  | [] => [p]
  | q :: t => if p.1 < q.1 ∨ (p.1 = q.1 ∧ p.2 ≤ q.2) then p :: q :: t else q :: insPair p t

/-- Footprint (R76) and `ALIAS` (R80) over the (stride, extent) pairs in rising order. -/
def spanAlias (span : Nat) (l : List (Nat × Nat)) : Nat × Bool :=
  l.foldl (fun a p => (p.1 * (p.2 - 1) + a.1, a.2 || decide (p.1 < a.1))) (span, false)

/-- R80: (`VCAUSE`, `ALIAS`) of an image whose ignored fields are already zero. -/
def validateCause (s : State) (d : W512) : Nat × Bool :=
  match Fmt.ofCode (imgFld d 0 63 60) with
  | none => (0x01, false)
  | some f =>
    let rank := imgFld d 0 59 57
    let layc := imgFld d 0 56 55
    let pg := imgFld d 0 54 54
    let blkc := imgFld d 0 53 51
    let smode := imgFld d 0 50 50
    let gcap := imgFld d 0 43 40
    let zbm := imgFld d 0 39 39
    let soff := 64 * imgFld d 7 63 32
    let layoutOk := match layc with
      | 0 => !narrowPlanar f && pg == 0
      | 1 => mayPlanar f
      | 2 => sparseFmt f && pg == 0
      | _ => false
    let scaleOk := decide (blkc ≤ 4) && (blkc == 0 || mayPlanar f)
      && (smode == 0 || (blkc == 2 && f != .int4))
    let ext := (List.range 6).map fun k => if k < rank then imgExt d k else 1
    let e0 := ext.getD 0 1
    let local_ : Bool := imgDev d == s.devAddr
    let base := imgBase d
    let rgn := imgRegion d
    let regionCheck (main aux : Nat) (alias_ : Bool) : Nat × Bool :=
      if !local_ then (0x00, alias_)
      else if !s.rgnAlloc rgn || decide (base < s.rgnBase rgn) || decide (s.rgnLimit rgn < base + main) then
        (0x09, false)
      else if aux ≠ 0 ∧ s.rgnLimit rgn < base + soff + aux then (0x0A, false)
      else (0x00, alias_)
    if rank = 0 ∨ rank = 7 then (0x02, false)
    else if !layoutOk then (0x03, false)
    else if !scaleOk then (0x04, false)
    else if base % 64 ≠ 0 then (0x05, false)
    else if ext.any (· == 0) then (0x06, false)
    else if 2 ^ 40 < product ext then (0x07, false)
    else if bits (imgTid d) 23 22 ≠ 0 then (0x08, false)
    else if gcap ≠ 0 ∧ (layc ≠ 2 ∨ 7 < gcap) then (0x0C, false)
    else if layc = 2 then
      if rank ≠ 2 ∨ zbm = 1 ∨ (List.range 5).any (fun k => decide (k + 1 < rank) && imgStr d (k + 1) != 0) then
        (0x0B, false)
      else
        let main := roundup64 (cdiv (ext.getD 1 1) 128 * cdiv e0 128 * 16)
        if soff < main then (0x0A, false) else regionCheck main 0 false
    else
      let lay : Layout := if layc = 1 then .planar else .dense
      let pairs := (List.range 5).foldl (fun acc k =>
        if k + 1 < rank ∧ 1 < ext.getD (k + 1) 1 then insPair (64 * imgStr d (k + 1), ext.getD (k + 1) 1) acc
        else acc) []
      let sa := spanAlias (runLen f lay (if pg = 1 then 4096 else 512) e0) pairs
      let nr := product (ext.drop 1)
      let aux := nr * srl e0 (blkSize blkc) + (if zbm = 1 then nr * zrl e0 else 0)
      if aux ≠ 0 ∧ soff < sa.1 then (0x0A, false) else regionCheck sa.1 aux sa.2

/-- The ignored fields of R73: `ALIAS`, `VCAUSE`, the reserved bits, and with `RANK` 1 to 6 the extents and strides at or
above it. Each non-zero one is counted; all become zero. -/
def stripIgnored (d : W512) : W512 × Nat :=
  let rank := imgFld d 0 59 57
  let clr (acc : W512 × Nat) (w hi lo : Nat) : W512 × Nat :=
    (imgSet acc.1 w hi lo 0, acc.2 + b2n (imgFld acc.1 w hi lo != 0))
  let acc := clr (clr (clr (d, 0) 0 38 38) 0 37 32) 0 31 24
  if rank = 0 ∨ rank = 7 then acc
  else
    let acc := (List.range 6).foldl (fun a k =>
      if rank ≤ k then clr a (2 + k / 2) (32 * (k % 2) + 31) (32 * (k % 2)) else a) acc
    (List.range 5).foldl (fun a j =>
      if rank ≤ j + 1 then clr a (5 + j / 2) (32 * (j % 2) + 31) (32 * (j % 2)) else a) acc

/-- Creation of a descriptor (R73, R80): the image written, and the fields counted. -/
def validateImage (s : State) (d : W512) : W512 × Nat :=
  let st := stripIgnored d
  let c := validateCause s st.1
  let d := imgSet (imgSet st.1 0 31 24 c.1) 0 38 38 (b2n c.2)
  (if c.1 = 0 then d else imgSet d 0 63 60 0xF, st.2)

/-- R85: the void image of a rewritten region: `VCAUSE` 0x0D, other fields kept (R82). -/
def voidByRewrite (d : W512) : W512 := imgSet (imgSet (imgSet d 0 63 60 0xF) 0 31 24 0x0D) 0 38 38 0

/-- Is this a valid local descriptor on region n? -/
def namesRegion (s : State) (n : Nat) (d : W512) : Bool :=
  (viewOf d).isSome && imgRegion d == n && imgDev d == s.devAddr

/-! ## Element positions -/

/-- Coordinates inside the validated shape: i0 and the five outer ones. -/
def View.inShape (v : View) (i0 : Nat) (outer : List Nat) : Bool :=
  decide (i0 < v.e 0) && (List.range 5).all fun k => decide (outer.getD k 0 < v.e (k + 1))

/-- Local byte address of a run (R75). -/
def View.runAddr (v : View) (outer : List Nat) : Nat :=
  (List.range 5).foldl (fun a k => a + outer.getD k 0 * v.sb (k + 1)) v.base

/-- Outer linear index of a run, i1 fastest (R77). -/
def View.runIndex (v : View) (outer : List Nat) : Nat :=
  (List.range 5).foldr (fun k a => a * v.e (k + 1) + outer.getD k 0) 0

/-- Element linear index of R44, dimension 0 fastest. -/
def View.linear (v : View) (i0 : Nat) (outer : List Nat) : Nat := v.runIndex outer * v.e 0 + i0

/-- Outer coordinates of run r. -/
def View.outerOf (v : View) (r : Nat) : List Nat :=
  ((List.range 5).foldl (fun (a : List Nat × Nat) k => (a.1 ++ [a.2 % v.e (k + 1)], a.2 / v.e (k + 1))) ([], r)).1

/-- Every run's outer coordinates, in logical order. -/
def View.runs (v : View) : List (List Nat) := (List.range v.nruns).map v.outerOf

/-- Auxiliary area (R77). -/
def View.aux (v : View) : Nat := v.base + 64 * v.soff
def View.scaleAddr (v : View) (outer : List Nat) (b : Nat) : Nat :=
  v.aux + v.runIndex outer * srl (v.e 0) v.blk + b
def View.zbmAddr (v : View) (outer : List Nat) : Nat :=
  v.aux + v.nruns * srl (v.e 0) v.blk + v.runIndex outer * zrl (v.e 0)

/-- The bytes that hold an element: one little-endian field (R75), or one byte of each plane, top plane first (R41). -/
def View.elemBytes (v : View) (i0 : Nat) (outer : List Nat) : List Nat :=
  let a := v.runAddr outer
  match v.layout with
  | .planar =>
    let gb := a + i0 / v.gsize * (v.fmt.width * v.gsize / 8)
    (List.range v.fmt.width).map fun p => gb + p * (v.gsize / 8) + i0 % v.gsize / 8
  | _ => (List.range (v.fmt.width / 8)).map fun i => a + i0 * (v.fmt.width / 8) + i

/-- An element's access touches the mould's term log (R263): its data, its scale or its bitmap byte. -/
def View.tlogHit (v : View) (s : State) (g i0 : Nat) (outer : List Nat) : Bool :=
  let m := s.mould g
  let hit (a : Nat) : Bool := decide (ocBase ≤ a) && m.inTlog (a - ocBase) 1
  if m.tlogRange.1 = m.tlogRange.2 ∨ v.dev ≠ s.devAddr then false
  else (v.elemBytes i0 outer).any hit || (v.blk != 0 && hit (v.scaleAddr outer (i0 / v.blk)))
    || (v.zbm && hit (v.zbmAddr outer + i0 / 8))

/-- A local address lies in the mould's term log (R263). -/
def State.inTlog (s : State) (g a : Nat) : Bool := decide (ocBase ≤ a) && (s.mould g).inTlog (a - ocBase) 1

/-- A byte behind a descriptor: this device's memory, zero in the term log (R263), or a remote owner's, which is the
environment's: within one heat the same byte reads the same, and a launch drops what was cached (R279; log entry 20). A base in the
operand cache or the data memory finds no region at its owner (R262). -/
def View.byte (v : View) (s : State) (g a : Nat) : Byte :=
  if v.dev ≠ s.devAddr then
    (match windowOf v.base with
    | some .ocache | some .dmem => 0
    | _ => Config.remoteByte s.heats.launches v.dev a)
  else if s.inTlog g a then 0 else s.byteAt g a

/-- A contiguous write through a descriptor; bytes in the term log are not written (R263). -/
def State.storeDesc (s : State) (g a : Nat) (bs : List Byte) : State :=
  (bs.zipIdx.filter fun b => !s.inTlog g (a + b.2)).foldl (fun s b => s.putByte g (a + b.2) b.1) (s.rmw a bs.length)

/-! ## Element reads -/

/-- A plane-truncated code: the low W − p bits cleared (R43). -/
def truncPlanes (w p c : Nat) : Nat := c / 2 ^ (w - p) * 2 ^ (w - p)

/-- Code of an element; a planar view gives its top planes (R43). -/
def View.code (v : View) (s : State) (g i0 : Nat) (outer : List Nat) : Nat :=
  let bs := (v.elemBytes i0 outer).map fun a => v.byte s g a
  match v.layout with
  | .planar => truncPlanes v.fmt.width v.planes (bs.foldl (fun acc b => 2 * acc + b2n (b.getLsbD (i0 % 8))) 0)
  | _ => leNat bs

/-- Scale byte of the block that holds element i0 (R35, R77). -/
def View.scale (v : View) (s : State) (g i0 : Nat) (outer : List Nat) : Nat :=
  (v.byte s g (v.scaleAddr outer (i0 / v.blk))).toNat

/-- Exponent that a scale byte multiplies with: S − 127, and 2⁻⁶ more for MX INT8 (R35). -/
def scaleExp (f : Fmt) (mx : Bool) (sc : Nat) : Int := (sc : Int) - 127 - (if mx ∧ f = .int8 then 6 else 0)

/-- Value of a code under a block scale; scale 0xFF is NaN (R35). -/
def scaledVal (f : Fmt) (mx : Bool) (sc : Nat) (c : Nat) : Val :=
  if sc = 255 then .nan else (decode f c).scale (scaleExp f mx sc)

/-- Decoded value of an element, block scale included. -/
def View.value (v : View) (s : State) (g i0 : Nat) (outer : List Nat) : Val :=
  let c := v.code s g i0 outer
  if v.blk = 0 then decode v.fmt c else scaledVal v.fmt v.mx (v.scale s g i0 outer) c

/-- Zero-bitmap bit of an element (R77, R78). -/
def View.zbit (v : View) (s : State) (g i0 : Nat) (outer : List Nat) : Bool :=
  v.zbm && (v.byte s g (v.zbmAddr outer + i0 / 8)).getLsbD (i0 % 8)

/-- A read of one element under R86 and R263: its value and the violations counted; outside the shape and inside the
term log it reads zero and counts one. -/
def View.read (v : View) (s : State) (g i0 : Nat) (outer : List Nat) : Val × Nat :=
  if !v.inShape i0 outer || v.tlogHit s g i0 outer then (.zero, 1) else (v.value s g i0 outer, 0)

/-- As `read`, for the code of an element. -/
def View.readCode (v : View) (s : State) (g i0 : Nat) (outer : List Nat) : Nat × Nat :=
  if !v.inShape i0 outer || v.tlogHit s g i0 outer then (0, 1) else (v.code s g i0 outer, 0)

/-! ## Block scales (R36, R37) -/

/-- emax of R36; 0 for INT8 in MX compatibility mode (R37). -/
def emax (f : Fmt) (mx : Bool) : Int :=
  match f with
  | .e5m2 => 15 | .e4m3 => 8 | .e3m2 => 4 | .e2m3 => 2 | .e2m1 => 2
  | .int8 => if mx then 0 else 6
  | _ => 2

/-- Largest finite magnitude of a block, zero if it has none. -/
def amaxOf (vs : List Val) : Val :=
  vs.foldl (fun a v => if v.isFin && Val.absLt a v then v.abs else a) .zero

/-- Scale code that the device chooses for a block (R36; R37 without the correction step). -/
def chooseScale (f : Fmt) (mx : Bool) (vs : List Val) : Nat :=
  match amaxOf vs with
  | .fin _ m e =>
    if m = 0 then 0x7F
    else
      let k := flog2 m e - emax f mx
      let k := if !mx && (convert f .rne 0 (.fin false m (e - k))).2 == .magnitude then k + 1 else k
      (min (max k (-127)) 127 + 127).toNat
  | _ => 0x7F

/-! ## Element writes -/

/-- What a write gathers: clamps, those of magnitude (R66), violations, whether a NaN was written (R124), bytes written (R211). -/
structure WStat where
  clamps : Nat := 0
  mclamps : Nat := 0
  viol : Nat := 0
  nan : Bool := false
  bytes : Nat := 0
  deriving DecidableEq, Repr

def WStat.add (a b : WStat) : WStat :=
  { clamps := a.clamps + b.clamps, mclamps := a.mclamps + b.mclamps, viol := a.viol + b.viol, nan := a.nan || b.nan,
    bytes := a.bytes + b.bytes }

/-- Read-modify-writes of a list of byte addresses in rising order, joined into contiguous ranges (R264). -/
def rmwCount (addrs : List Nat) : Nat :=
  let step := fun (a : Nat × Option (Nat × Nat)) x =>
    match a.2 with
    | none => (a.1, some (x, 1))
    | some (st, n) => if x = st + n then (a.1, some (st, n + 1)) else (a.1 + partialGranules st n, some (x, 1))
  match addrs.foldl step (0, none) with
  | (c, some (st, n)) => c + partialGranules st n
  | (c, none) => c

/-- Store single bytes in rising address order, counting read-modify-writes in HBM. -/
def State.storeList (s : State) (g : Nat) (l : List (Nat × Byte)) : State :=
  let s := s.count Reg.MEM_CNT_RMW (rmwCount ((l.map (·.1)).filter fun a => windowOf a == some .hbm))
  l.foldl (fun s p => s.putByte g p.1 p.2) s

/-- Byte image of planes with some elements replaced; padding of the last group becomes zero (R42). -/
def View.planarWrites (v : View) (s : State) (g : Nat) (outer : List Nat) (codes : List (Nat × Nat)) :
    List (Nat × Byte) :=
  let a := v.runAddr outer
  let w := v.fmt.width
  let groups := (List.range (cdiv (v.e 0) v.gsize)).filter fun gi => codes.any fun c => c.1 / v.gsize == gi
  groups.flatMap fun gi =>
    (List.range w).flatMap fun p =>
      (List.range (v.gsize / 8)).filterMap fun b =>
        let addr := a + gi * (w * v.gsize / 8) + p * (v.gsize / 8) + b
        let lo := gi * v.gsize + 8 * b
        let mine := codes.filter fun c => decide (lo ≤ c.1 ∧ c.1 < lo + 8)
        if mine.isEmpty && decide (lo + 8 ≤ v.e 0) then none
        else
          let old := s.byteAt g addr
          some (addr, BitVec.ofNat 8 ((List.range 8).foldr (fun i acc =>
            let bit := if v.e 0 ≤ lo + i then 0
              else match mine.find? (fun c => c.1 == lo + i) with
                | some c => c.2 / 2 ^ (w - 1 - p) % 2
                | none => b2n (old.getLsbD i)
            bit + 2 * acc) 0))

/-- Byte image of little-endian elements. -/
def View.denseWrites (v : View) (outer : List Nat) (codes : List (Nat × Nat)) : List (Nat × Byte) :=
  let a := v.runAddr outer
  let n := v.fmt.width / 8
  codes.flatMap fun c => ((leBytes n c.2).zipIdx).map fun b => (a + c.1 * n + b.2, b.1)

/-- Bitmap bytes of the elements written (R78). -/
def View.zbmWrites (v : View) (s : State) (g : Nat) (outer : List Nat) (zs : List (Nat × Bool)) : List (Nat × Byte) :=
  let za := v.zbmAddr outer
  (List.range (cdiv (v.e 0) 8)).filterMap fun b =>
    let mine := zs.filter fun z => z.1 / 8 == b
    if mine.isEmpty then none
    else
      let old := s.byteAt g (za + b)
      some (za + b, BitVec.ofNat 8 ((List.range 8).foldr (fun i acc =>
        (match mine.find? (fun z => z.1 % 8 == i) with
          | some z => b2n z.2
          | none => b2n (old.getLsbD i)) + 2 * acc) 0))

/-- Bytes that `putCodes` stores: data with the padding of a planar group, scales and bitmap. -/
def View.putSize (v : View) (s : State) (g : Nat) (outer : List Nat) (codes scales : List (Nat × Nat))
    (zs : List (Nat × Bool)) : Nat :=
  (match v.layout with
    | .planar => v.planarWrites s g outer codes
    | _ => v.denseWrites outer codes).length
  + (if v.blk = 0 then 0 else scales.length) + (if v.zbm then (v.zbmWrites s g outer zs).length else 0)

/-- Store codes of elements of one run, with scale bytes (block, scale) and bitmap bits. -/
def View.putCodes (v : View) (s : State) (g : Nat) (outer : List Nat) (codes : List (Nat × Nat))
    (scales : List (Nat × Nat)) (zs : List (Nat × Bool)) : State :=
  let s := s.storeList g (match v.layout with
    | .planar => v.planarWrites s g outer codes
    | _ => v.denseWrites outer codes)
  let s := if v.blk = 0 then s
    else s.storeList g (scales.map fun b => (v.scaleAddr outer b.1, BitVec.ofNat 8 b.2))
  if v.zbm then s.storeList g (v.zbmWrites s g outer zs) else s

/-- One element converted for a write: position, code, clamp, and whether it is written as a zero (R78). -/
structure Conv where
  i0 : Nat
  code : Nat
  clamp : Clamp
  zero : Bool
  deriving DecidableEq, Repr

/-- Scale codes of the blocks that a write of these elements touches: chosen under R36 or R37, or the ones already stored
in host-assisted block-scale mode (R39, R401); `shift` is the recomputation's +16 (R67), at most 0xFE. -/
def View.blockScales (v : View) (s : State) (g : Nat) (outer : List Nat) (vals : List (Nat × Val)) (shift : Nat) :
    List (Nat × Nat) :=
  if v.blk = 0 then []
  else ((vals.map fun p => p.1 / v.blk).eraseDups).map fun b =>
    (b, if s.modeBit 2 then (s.byteAt g (v.scaleAddr outer b)).toNat
        else
          let c := chooseScale v.fmt v.mx ((vals.filter fun p => p.1 / v.blk == b).map (·.2))
          if shift = 0 then c else min 0xFE (c + shift))

/-- Conversion of elements of one run with the write-rounding mode (R27 to R33); with `shift` the values stand 2^shift
times below what is written (R67). `base` is where this tensor's elements begin in a larger shape (R332). -/
def View.convRun (v : View) (outer : List Nat) (blocks : List (Nat × Nat)) (vals : List (Nat × Val)) (mode : RMode)
    (ctx : Ctx) (shift : Nat) (base : Nat := 0) : List Conv :=
  vals.map fun p =>
    let x := p.2.scale shift
    let rnd := if mode = .sr then elemWord ctx (base + v.linear p.1 outer) else 0
    match (blocks.find? fun b => b.1 == p.1 / v.blk).map (·.2) with
    | some 255 => ⟨p.1, 0, if p.2.isNan then .none else .domain, false⟩
    | some k =>
      let c := convert v.fmt mode rnd (x.scale (-(scaleExp v.fmt v.mx k)))
      ⟨p.1, c.1, c.2, (decode v.fmt c.1).isZero⟩
    | none =>
      let c := convert v.fmt mode rnd x
      ⟨p.1, c.1, c.2, (decode v.fmt c.1).isZero⟩

/-- Write values into elements of one run (positions rising). Elements outside the shape or in the term log are not
written and count one each (R86, R263). -/
def View.writeRun (v : View) (s : State) (g : Nat) (outer : List Nat) (vals : List (Nat × Val)) (mode : RMode)
    (ctx : Ctx) (shift : Nat := 0) (base : Nat := 0) : State × WStat :=
  let ok := vals.filter fun p => v.inShape p.1 outer && !v.tlogHit s g p.1 outer
  let blocks := v.blockScales s g outer ok shift
  let done := v.convRun outer blocks ok mode ctx shift base
  let codes := done.map fun d => (d.i0, d.code)
  let zs := done.map fun d => (d.i0, d.zero)
  (if done.isEmpty then s else v.putCodes s g outer codes blocks zs,
      { bytes := if done.isEmpty then 0 else v.putSize s g outer codes blocks zs
        clamps := (done.filter fun d => d.clamp.any).length,
        mclamps := (done.filter fun d => d.clamp == .magnitude).length,
        viol := vals.length - ok.length, nan := ok.any fun p => p.2.isNan })

/-! ## Operands as wholes -/

/-- A written operand that cannot be written: void, sparse where R454 does not admit it, `ALIAS` (R84), remote (R83), or
E8M0 (R33). Each counts once per instruction. -/
def destOk (s : State) (d : Option View) : Bool :=
  match d with
  | some v => v.layout != .sparse && !v.alias_ && v.dev == s.devAddr && v.fmt != .e8m0
  | none => false

/-- Violations of an instruction's written operands (R83, R84, R86): each void one, and each one here that `fits` rules out (sparse,
of a format or at a place that its instruction does not write), counts; those of another device count one together, and those
with `ALIAS` one together. -/
def writeFaults (s : State) (ds : List (Option View × Bool)) : Nat :=
  let here (v : View) : Bool := v.dev == s.devAddr
  totalBy (fun d => match d.1 with
    | some v => b2n (here v && !d.2)
    | none => 1) ds
  + b2n (ds.any fun d => match d.1 with
    | some v => !here v
    | none => false)
  + b2n (ds.any fun d => match d.1 with
    | some v => here v && d.2 && v.alias_
    | none => false)

/-- An operand of a routing instruction that reads as zero: void, sparse (R454), or of another device, which may be the source of
a fetch or a collective only (R83). -/
def voidOperand (s : State) (d : W512) : Bool :=
  match viewOf d with
  | some v => v.layout == .sparse || v.dev != s.devAddr
  | none => true

/-- The windows that an operand's bytes lie in. -/
def View.window (v : View) : Option Window := windowOf v.base

/-- Local operand in the operand cache (R102). -/
def View.inOcache (v : View) (s : State) : Bool := v.dev == s.devAddr && v.window == some .ocache
/-- Local operand in the operand cache or in the flask scratchpad of the mould's own crucible (R179, R218, R236). -/
def View.nearMould (v : View) (s : State) (g : Nat) : Bool :=
  v.dev == s.devAddr && (v.window == some .ocache || v.window == some (.flask (g / 64)))

/-- May an operand of format `src` be used as `dst` (R33)? -/
def usable (src dst : Fmt) : Bool := convertible src dst

end Sys2Proof.Machine
end

