-- ==== Sys2Proof/Machine/Desc.lean ====
section
/-! DEFINITION. Descriptor instructions (R213, R214). -/
namespace Sys2Proof.Machine

/-- Data address a + the sign-extended `IMM16`, as a u64. -/
def descAddr (o : DescOps) (m : Mould) : Nat := (m.getX o.ra.toNat + o.imm.signExtend 64).toNat

/-- A 64 B image fits here: a multiple of 64 inside data memory (R214). -/
def descAddrOk (a : Nat) : Bool := decide (a % 64 = 0 ∧ a + 64 ≤ 0x10000)

/-- `DD` ← the validated image; the ignored fields that were supplied count (R73). -/
def writeDesc (s : State) (g : Nat) (dd : Nat) (img : W512) : State :=
  let r := validateImage s img
  s.updMould g fun m => (m.setD dd r.1).count Reg.CTL_CNT_VIOL r.2

/-- The image in `DA` without the fields that the device sets itself, as a supplied image. -/
def supplied (d : W512) : W512 := imgSet (imgSet d 0 38 38 0) 0 31 24 0

def execDmk (h : Hdr) (o : DescOps) (s : State) : Res :=
  .next (pairStep h s fun s =>
    let g := h.m.toNat
    let m := s.mould g
    let a := descAddr o m
    if descAddrOk a then writeDesc s g o.dd.toNat (BitVec.ofNat 512 (m.dmem.word a 64))
    else s.updMould g fun m => (m.setD o.dd.toNat voidImage).count Reg.CTL_CNT_VIOL 1)

def execDsave (h : Hdr) (o : DescOps) (s : State) : Res :=
  .next (pairLocal h s fun m =>
    let a := descAddr o m
    if descAddrOk a then { m with dmem := m.dmem.puts a (leBytes 64 (m.getD o.da.toNat).toNat) }
    else m.count Reg.CTL_CNT_VIOL 1)

def execDcopy (h : Hdr) (o : DescOps) (s : State) : Res :=
  .next (pairLocal h s fun m => m.setD o.dd.toNat (m.getD o.da.toNat))

/-- `DESC.BASE` + 64 × a with a as i64; out of 0 to 2⁴⁸ − 1 the result is void with `VCAUSE` 0x09 (R214). -/
def execDoff (h : Hdr) (o : DescOps) (s : State) : Res :=
  .next (pairStep h s fun s =>
    let g := h.m.toNat
    let m := s.mould g
    let d := supplied (m.getD o.da.toNat)
    let b : Int := (imgBase d : Int) + 64 * (m.getX o.ra.toNat).toInt
    if 0 ≤ b ∧ b < 2 ^ 48 then writeDesc s g o.dd.toNat (imgSet d 1 47 0 b.toNat)
    else s.updMould g fun m => m.setD o.dd.toNat (imgSet (imgSet d 0 63 60 0xF) 0 31 24 0x09))

/-- Extent `IMM16`[2:0] ← a[31:0]; 6 and 7 copy `DA` and count once (R214). -/
def execDext (h : Hdr) (o : DescOps) (s : State) : Res :=
  .next (pairStep h s fun s =>
    let g := h.m.toNat
    let m := s.mould g
    let k := o.imm.toNat % 8
    if 6 ≤ k then s.updMould g fun m => (m.setD o.dd.toNat (m.getD o.da.toNat)).count Reg.CTL_CNT_VIOL 1
    else writeDesc s g o.dd.toNat (imgSetExt (supplied (m.getD o.da.toNat)) k (fld (m.getX o.ra.toNat) 31 0)))

def execDtid (h : Hdr) (o : DescOps) (s : State) : Res :=
  .next (pairStep h s fun s =>
    let g := h.m.toNat
    let m := s.mould g
    writeDesc s g o.dd.toNat (imgSet (supplied (m.getD o.da.toNat)) 0 23 0 (fld (m.getX o.ra.toNat) 23 0)))

end Sys2Proof.Machine
end

