-- ==== Sys2Proof/Machine/Tiles.lean ====
section
/-! DEFINITION. Sparse weight tiles: directory entries (R88, R89), tile records (R90 to R94), malformed records and bad
entries (R95, R96), group caps (R97), and building a record (R150). -/
namespace Sys2Proof.Machine

open Sys2Proof.Num

/-- Tile rows and tile columns of the grid (R88). -/
def View.tileRows (v : View) : Nat := cdiv (v.e 1) 128
def View.tileCols (v : View) : Nat := cdiv (v.e 0) 128
/-- A tile of the grid. -/
def View.inGrid (v : View) (tr tc : Nat) : Bool := decide (tr < v.tileRows ∧ tc < v.tileCols)

/-- Local address of a directory entry and of a record (R88, R89). -/
def View.dirAddr (v : View) (tr tc : Nat) : Nat := v.base + 16 * (tr * v.tileCols + tc)
def View.recAddr (v : View) (off : Nat) : Nat := v.base + 64 * v.soff + 64 * off

/-- A directory entry (R89). -/
structure DirEnt where
  capx : Bool
  enc : Nat
  nnz : Nat
  off : Nat
  len : Nat
  deriving DecidableEq, Repr

def DirEnt.ofWords (w0 w1 : Nat) : DirEnt :=
  { capx := bits w0 58 58 = 1, enc := bits w0 57 56, nnz := bits w0 55 40, off := bits w0 39 0, len := bits w1 23 0 }

/-- The 16 bytes of an entry, reserved bits zero. -/
def DirEnt.bytes (d : DirEnt) : List Byte :=
  leBytes 8 (b2n d.capx * 2 ^ 58 + d.enc % 4 * 2 ^ 56 + d.nnz % 65536 * 2 ^ 40 + d.off % 2 ^ 40)
    ++ leBytes 8 (d.len % 2 ^ 24)

/-- An entry that every later read finds malformed (R95, R217): `TDIR.ENC` = 0b11, its other fields as they were. -/
def DirEnt.spoiled (d : DirEnt) : DirEnt := { d with enc := 3 }

/-- Bytes behind a descriptor. -/
def View.bytes (v : View) (s : State) (g a n : Nat) : List Byte := (List.range n).map fun i => v.byte s g (a + i)

/-- The two words of a directory entry as they stand in memory. -/
def View.dirWords (v : View) (s : State) (g tr tc : Nat) : W64 × W64 :=
  let a := v.dirAddr tr tc
  (BitVec.ofNat 64 (leNat (v.bytes s g a 8)), BitVec.ofNat 64 (leNat (v.bytes s g (a + 8) 8)))

/-- Lengths of the three parts of a record (R90). -/
def patLen (enc nnz : Nat) : Nat :=
  match enc with
  | 1 => 2048
  | 2 => roundup64 (128 + cdiv (7 * nnz) 8)
  | _ => 0
def scLen (b nnz : Nat) : Nat := if b = 0 then 0 else roundup64 (cdiv nnz b)
def valLen (f : Fmt) (nnz : Nat) : Nat :=
  if narrowPlanar f then cdiv nnz 512 * f.width * 64 else roundup64 (nnz * f.width / 8)

/-- Encoding that the device chooses (R94). -/
def chooseEnc (nnz : Nat) : Nat := if nnz = 0 then 0 else if nnz ≤ 2121 then 2 else 1

/-- One packed entry: tile position 128·r + c, value code, and whether it counts as bad (R96). -/
structure Entry where
  pos : Nat
  code : Nat
  bad : Bool
  deriving DecidableEq, Repr

/-- A tile as read: malformed (R95), or its packed entries and scale bytes; and how many of its elements lie in the
mould's term log (R263). -/
structure Tile where
  tr : Nat
  tc : Nat
  dir : DirEnt
  malformed : Bool
  entries : List Entry
  scales : List Nat
  hits : Nat
  deriving DecidableEq, Repr

/-- Positions of a `BITMAP` pattern in rising order (R91). -/
def bitmapPos (pat : Nat) : List Nat := (List.range 16384).filter fun p => pat.testBit p

/-- Positions of an `INDEX7` pattern, each with whether it is misordered (R92, R96). -/
def index7Pos (counts : List Nat) (stream : Nat) : List (Nat × Bool) :=
  let rows := counts.zipIdx
  (rows.foldl (fun (acc : List (Nat × Bool) × Nat) r =>
    let row := (List.range r.1).foldl (fun (a : List (Nat × Bool) × Option Nat × Nat) _ =>
      let c := stream / 2 ^ (7 * a.2.2) % 128
      let bad := match a.2.1 with
        | some p => decide (c ≤ p)
        | none => false
      (a.1 ++ [(128 * r.2 + c, bad)], (if bad then a.2.1 else some c), a.2.2 + 1)) ([], none, acc.2)
    (acc.1 ++ row.1, row.2.2)) ([], 0)).1

/-- Value code n of packed values (R93): planes of 512, or little-endian fields. -/
def packedCode (f : Fmt) (vals : List Byte) (n : Nat) : Nat :=
  if narrowPlanar f then
    let gb := n / 512 * (f.width * 64)
    (List.range f.width).foldl (fun acc p =>
      2 * acc + b2n ((vals.getD (gb + p * 64 + n % 512 / 8) 0).getLsbD (n % 8))) 0
  else leNat ((vals.drop (n * (f.width / 8))).take (f.width / 8))

/-- The record range of a local descriptor lies inside its region (R95); a remote owner checks its own (R83). -/
def View.inRegion (v : View) (s : State) (a n : Nat) : Bool :=
  v.dev != s.devAddr || (s.rgnAlloc v.region && decide (s.rgnBase v.region ≤ a ∧ a + n ≤ s.rgnLimit v.region))

/-- Byte addresses of packed value n of values that start at `a` (R93). -/
def View.valueBytes (v : View) (a n : Nat) : List Nat :=
  if narrowPlanar v.fmt then
    (List.range v.fmt.width).map fun p => a + n / 512 * (v.fmt.width * 64) + p * 64 + n % 512 / 8
  else (List.range (v.fmt.width / 8)).map fun i => a + n * (v.fmt.width / 8) + i

/-- Packed values whose bytes or scale lie in the term log (R263). -/
def View.recordHits (v : View) (s : State) (g sa va nnz : Nat) : Nat :=
  if v.dev ≠ s.devAddr ∨ (s.mould g).tlogRange.1 = (s.mould g).tlogRange.2 then 0
  else ((List.range nnz).filter fun n =>
    (v.valueBytes va n).any (s.inTlog g) || (v.blk != 0 && s.inTlog g (sa + n / v.blk))).length

/-- Read tile (tr, tc) of the grid: its directory entry once, then its record (R89 to R96, R132). -/
def View.readTile (v : View) (s : State) (g tr tc : Nat) : Tile :=
  let w := v.dirWords s g tr tc
  let d := DirEnt.ofWords w.1.toNat w.2.toNat
  let bad : Tile := ⟨tr, tc, d, true, [], [], 0⟩
  let a := v.recAddr d.off
  let pl := patLen d.enc d.nnz
  let sl := scLen v.blk d.nnz
  let vl := valLen v.fmt d.nnz
  if d.enc = 3 ∨ (d.enc = 0 ∧ d.nnz ≠ 0) ∨ (d.enc ≠ 0 ∧ d.nnz = 0) ∨ 16384 < d.nnz then bad
  else if 64 * d.len ≠ pl + sl + vl then bad
  else if d.len ≠ 0 ∧ !v.inRegion s a (64 * d.len) then bad
  else
    let pat := v.bytes s g a pl
    let counts := (pat.take 128).map (·.toNat)
    let pos : Option (List (Nat × Bool)) :=
      match d.enc with
      | 1 =>
        let ps := bitmapPos (leNat pat)
        if ps.length = d.nnz then some (ps.map fun p => (p, false)) else none
      | 2 =>
        if counts.any (fun c => decide (128 < c)) ∨ counts.foldl (· + ·) 0 ≠ d.nnz then none
        else some (index7Pos counts (leNat (pat.drop 128)))
      | _ => some []
    match pos with
    | none => bad
    | some ps =>
      let vals := v.bytes s g (a + pl + sl) vl
      { bad with
        malformed := false
        hits := v.recordHits s g (a + pl) (a + pl + sl) d.nnz
        scales := (v.bytes s g (a + pl) (if v.blk = 0 then 0 else cdiv d.nnz v.blk)).map (·.toNat)
        entries := ps.zipIdx.map fun p =>
          { pos := p.1.1, code := packedCode v.fmt vals p.2,
            bad := p.1.2 || decide (v.e 1 ≤ 128 * tr + p.1.1 / 128 ∨ v.e 0 ≤ 128 * tc + p.1.1 % 128) } }

/-- Entries that contribute, with their packed slots. -/
def Tile.good (t : Tile) : List (Entry × Nat) := t.entries.zipIdx.filter fun e => !e.1.bad

/-- Number of bad entries (R86, R96) and of elements in the term log (R263). -/
def Tile.badCount (t : Tile) : Nat := (t.entries.filter (·.bad)).length + t.hits

/-- Decoded value of packed slot n (R35, R93). -/
def Tile.value (v : View) (t : Tile) (code slot : Nat) : Val :=
  if v.blk = 0 then decode v.fmt code else scaledVal v.fmt v.mx (t.scales.getD (slot / v.blk) 0) code

/-- Dense position of a tile position, row × EXT0 + column (R93). -/
def View.densePos (v : View) (tr tc p : Nat) : Nat := (128 * tr + p / 128) * v.e 0 + 128 * tc + p % 128

/-- Groups of eight positions over a cap, with their counts (R97): group id is position / 8. -/
def overCap (pos : List Nat) (cap : Nat) : List Nat :=
  if cap = 0 then []
  else (((pos.map (· / 8)).eraseDups).map fun gr => (pos.filter fun p => p / 8 == gr).length).filter fun n =>
    decide (cap < n)

/-- Pad to n bytes with zeros. -/
def padTo (n : Nat) (l : List Byte) : List Byte := (l ++ List.replicate (n - l.length) 0).take n

/-- Pattern bytes of an encoding over rising positions (R91, R92). -/
def patternBytes (enc : Nat) (pos : List Nat) : List Byte :=
  match enc with
  | 1 => leBytes 2048 (pos.foldl (fun a p => a + 2 ^ p) 0)
  | 2 =>
    let counts := (List.range 128).map fun r => BitVec.ofNat 8 (pos.filter fun p => p / 128 == r).length
    let stream := pos.foldr (fun p a => p % 128 + 128 * a) 0
    counts ++ leBytes (cdiv (7 * pos.length) 8) stream
  | _ => []

/-- Bytes of packed value codes (R93). -/
def packValues (f : Fmt) (codes : List Nat) : List Byte :=
  if narrowPlanar f then
    (List.range (cdiv codes.length 512)).flatMap fun gr =>
      (List.range f.width).flatMap fun p =>
        (List.range 64).map fun b => BitVec.ofNat 8 ((List.range 8).foldr (fun i a =>
          codes.getD (512 * gr + 8 * b + i) 0 / 2 ^ (f.width - 1 - p) % 2 + 2 * a) 0)
  else codes.flatMap fun c => leBytes (f.width / 8) c

/-- Insert a position with a value in rising order of position. -/
def insPos {α : Type} (p : Nat × α) : List (Nat × α) → List (Nat × α)
  | [] => [p]
  | q :: t => if p.1 ≤ q.1 then p :: q :: t else q :: insPos p t

/-- Packed values converted with RNE under their block scales (R150, R283), each with its clamp. -/
def packedConvert (v : View) (scales : List Nat) (vals : List Val) : List (Nat × Clamp) :=
  vals.zipIdx.map fun p =>
    convert v.fmt .rne 0 (if v.blk = 0 then p.1 else p.1.scale (-(scaleExp v.fmt v.mx (scales.getD (p.2 / v.blk) 127))))

def clampCount (l : List (Nat × Clamp)) : Nat := (l.filter fun x => x.2.any).length

/-- A record from (position, value) pairs (R94, R150): scales chosen from the values, each value converted with RNE.
Gives the bytes, the encoding, whether a group passes the cap, and the clamps (R32). -/
def buildRecord (v : View) (pairs : List (Nat × Val)) : List Byte × Nat × Bool × Nat :=
  let ps := pairs.foldr insPos []
  let nnz := ps.length
  let enc := chooseEnc nnz
  let vals := ps.map (·.2)
  let scales := if v.blk = 0 then [] else (List.range (cdiv nnz v.blk)).map fun b =>
    chooseScale v.fmt v.mx ((vals.drop (b * v.blk)).take v.blk)
  let out := packedConvert v scales vals
  (padTo (patLen enc nnz) (patternBytes enc (ps.map (·.1)))
    ++ padTo (scLen v.blk nnz) (scales.map (BitVec.ofNat 8 ·))
    ++ padTo (valLen v.fmt nnz) (packValues v.fmt (out.map (·.1))), enc, !(overCap (ps.map (·.1)) v.gcap).isEmpty,
    clampCount out)

end Sys2Proof.Machine
end

