-- ==== Sys2Proof/Machine/Digest.lean ====
section
/-! DEFINITION. The 128-bit tensor digest (R225), SHA3-256 (FIPS 202) and CRC-32C, and the digest message of a tensor. -/
namespace Sys2Proof.Machine

open Sys2Proof.Num

/-! ## The digest of R225 -/

/-- `gf_mul`: product in GF(2¹²⁸) modulo x¹²⁸ + x⁷ + x² + x + 1. -/
def gfMul (a b : BitVec 128) : BitVec 128 :=
  ((List.range 128).foldl (fun (p : BitVec 128 × BitVec 128) i =>
    (if b.getLsbD i then p.1 ^^^ p.2 else p.1,
     (p.2 <<< 1) ^^^ (if p.2.getLsbD 127 then 0x87 else 0))) (0, a)).1

/-- Concatenation of (value, width) fields, first field at bit 0: the bits and their count. -/
def joinBits (fs : List (Nat × Nat)) : Nat × Nat :=
  fs.foldl (fun a f => (a.1 + f.1 % 2 ^ f.2 * 2 ^ a.2, a.2 + f.2)) (0, 0)

/-- The digest of a message under K with its length word (R225). -/
def digestBits (fs : List (Nat × Nat)) (lenWord : Nat) (key : BitVec 128) : BitVec 128 :=
  let m := joinBits fs
  let y := (List.range (cdiv m.2 128)).foldl
    (fun y i => gfMul (y ^^^ BitVec.ofNat 128 (m.1 / 2 ^ (128 * i))) key) (0 : BitVec 128)
  gfMul (y ^^^ BitVec.ofNat 128 (m.2 + lenWord)) key

/-- Block-scale code of a block size (R72). -/
def blkCode (b : Nat) : Nat :=
  match b with
  | 16 => 1 | 32 => 2 | 64 => 3 | 128 => 4
  | _ => 0

/-- FMT, BLK and layout part of the length word (R225). -/
def View.lenWord (v : View) : Nat :=
  v.fmt.code * 2 ^ 64 + blkCode v.blk * 2 ^ 68 + b2n (v.layout == .sparse) * 2 ^ 71

/-- Fields of one tile (R225): its good entries with dense position, then its scales; nothing for a malformed tile. -/
def tileFields (v : View) (t : Tile) : List (Nat × Nat) :=
  if t.malformed then []
  else t.good.map (fun e => (v.densePos t.tr t.tc e.1.pos * 65536 + e.1.code, 64)) ++ t.scales.map fun x => (x, 8)

/-- Tile coordinates in directory order. -/
def View.tiles (v : View) : List (Nat × Nat) :=
  (List.range (v.tileRows * v.tileCols)).map fun i => (i / v.tileCols, i % v.tileCols)

/-! ## Reads of another device's memory (R83, R327) -/

/-- The requests of a read of [a, a + n) behind a remote descriptor: at most 512 B each, from the first byte on (log entry 20). -/
def State.ask (s : State) (v : View) (a n : Nat) : State :=
  if v.dev = s.devAddr then s
  else (List.range (cdiv n 512)).foldl (fun s i =>
    s.send (.readReq (BitVec.ofNat 16 v.dev) v.region (a + 512 * i) (min 512 (n - 512 * i)))) s

/-- The requests of a read of one run, its scales included. -/
def State.askRun (s : State) (v : View) (o : List Nat) : State :=
  let n := match v.layout with
    | .planar => runLen v.fmt .planar v.gsize (v.e 0)
    | _ => cdiv (v.e 0 * v.fmt.width) 8
  (s.ask v (v.runAddr o) n).ask v (v.scaleAddr o 0) (if v.blk = 0 then 0 else cdiv (v.e 0) v.blk)

/-- The requests of a read of a whole tensor: its runs, or its directory and records. -/
def State.askView (s : State) (v : View) (g : Nat) : State :=
  if v.dev = s.devAddr then s
  else if v.layout = .sparse then
    v.tiles.foldl (fun s t =>
      let x := v.readTile s g t.1 t.2
      (s.ask v (v.dirAddr t.1 t.2) 16).ask v (v.recAddr x.dir.off) (if x.malformed then 0 else 64 * x.dir.len)) s
  else v.runs.foldl (fun s o => s.askRun v o) s

/-- `message_bits` of R225 and the violations that reading the tensor counts (R86, R263). -/
def View.messageBits (v : View) (s : State) (g : Nat) : List (Nat × Nat) × Nat :=
  if v.layout = .sparse then
    let ts := v.tiles.map fun t => v.readTile s g t.1 t.2
    (ts.flatMap (tileFields v), ts.foldl (fun a t => a + if t.malformed then 1 else t.badCount) 0)
  else
    let cells := v.runs.flatMap fun o => (List.range (v.e 0)).map fun i => v.readCode s g i o
    let scales := if v.blk = 0 then [] else v.runs.flatMap fun o =>
      (List.range (cdiv (v.e 0) v.blk)).map fun b => ((v.byte s g (v.scaleAddr o b)).toNat, 8)
    (cells.map (fun c => (c.1, v.fmt.width)) ++ scales, cells.foldl (fun a c => a + c.2) 0)

/-- Digest of a tensor under the run's key (R225). -/
def View.digest (v : View) (s : State) (g : Nat) : BitVec 128 :=
  digestBits (v.messageBits s g).1 v.lenWord s.heats.key

/-! ## SHA3-256 -/

/-- One shift of the 8-bit register that yields the round constants (FIPS 202, rc): x⁸ + x⁶ + x⁵ + x⁴ + 1. -/
def rcShift (r : Nat) : Nat := if r < 128 then 2 * r else Nat.xor (2 * r) 0x171

/-- The constant of a round, whose bit 2^j − 1 is the register's output j, and the register after its seven shifts. -/
def roundConst (r : Nat) : W64 × Nat :=
  [1, 2, 8, 128, 32768, 2 ^ 31, 2 ^ 63].foldl (fun k bit =>
    (if k.2 % 2 = 1 then k.1 ^^^ BitVec.ofNat 64 bit else k.1, rcShift k.2)) (0, r)

/-- The sponge's 1,600 bits: lane (x, y) at place x + 5·y. -/
abbrev Lanes := List W64

def Lanes.lane (a : Lanes) (x y : Nat) : W64 := a.getD (x % 5 + 5 * (y % 5)) 0

/-- θ: every lane takes the parities of its two neighbour columns. -/
def Lanes.theta (a : Lanes) : Lanes :=
  let par := fun x => (List.range 5).foldl (fun p y => p ^^^ a.lane x y) 0
  let mix := (List.range 5).map fun x => par (x + 4) ^^^ (par (x + 1)).rotateLeft 1
  a.zipIdx.map fun l => l.1 ^^^ mix.getD (l.2 % 5) 0

/-- ρ and π along the 24 lanes that the walk (x, y) → (y, 2x + 3y) visits from (1, 0): the lane met at step t is turned by
(t + 1)(t + 2)/2 bits and put where the walk goes next. Lane (0, 0) stays. -/
def Lanes.rhoPi (a : Lanes) : Lanes :=
  ((List.range 24).foldl (fun w t =>
    let x := w.2.1
    let y := w.2.2
    let y' := (2 * x + 3 * y) % 5
    (w.1.set (y + 5 * y') ((a.lane x y).rotateLeft ((t + 1) * (t + 2) / 2 % 64)), y, y')) (a, 1, 0)).1

/-- χ: along each row of five lanes. -/
def Lanes.chi (a : Lanes) : Lanes :=
  a.zipIdx.map fun l => l.1 ^^^ (a.lane (l.2 + 2) (l.2 / 5) &&& ~~~a.lane (l.2 + 1) (l.2 / 5))

/-- Keccak-f[1600]: 24 rounds, the register of the round constants starting at 1. -/
def Lanes.permute (a : Lanes) : Lanes :=
  ((List.replicate 24 ()).foldl (fun st _ =>
    let k := roundConst st.2
    (st.1.theta.rhoPi.chi.modifyHead (· ^^^ k.1), k.2)) (a, 1)).1

/-- A block of 136 bytes enters the first 17 lanes. -/
def Lanes.absorb (a : Lanes) (blk : List Byte) : Lanes :=
  Lanes.permute (a.zipIdx.map fun l => l.1 ^^^ BitVec.ofNat 64 (leNat ((blk.drop (8 * l.2)).take 8)))

/-- Message with SHA3 padding to whole blocks of 136 bytes. -/
def sha3Pad (m : List Byte) : List Byte :=
  let n := 136 - m.length % 136
  if n = 1 then m ++ [0x86] else m ++ [0x06] ++ List.replicate (n - 2) 0 ++ [0x80]

/-- The first n blocks of a padded message, absorbed in turn. -/
def Lanes.absorbAll : Nat → List Byte → Lanes → Lanes
  | 0, _, a => a
  | n + 1, m, a => absorbAll n (m.drop 136) (a.absorb (m.take 136))

/-- SHA3-256 of a byte list: 32 bytes. -/
def sha3 (m : List Byte) : List Byte :=
  let p := sha3Pad m
  let a := Lanes.absorbAll (p.length / 136) p (List.replicate 25 (0 : W64))
  (a.take 4).flatMap fun w => leBytes 8 w.toNat

/-- HMAC-SHA3-256 with its 136-byte block (FIPS 198-1). -/
def hmac (key m : List Byte) : List Byte :=
  let k := padTo 136 (if 136 < key.length then sha3 key else key)
  sha3 (k.map (· ^^^ 0x5C) ++ sha3 (k.map (· ^^^ 0x36) ++ m))

/-! ## CRC-32C -/

/-- CRC-32C of a byte list: reflected polynomial 0x82F63B78, all ones at the start and at the end. -/
def crc32c (m : List Byte) : W32 :=
  ~~~(m.foldl (fun c b =>
    (List.range 8).foldl (fun c _ => if c.getLsbD 0 then (c >>> 1) ^^^ 0x82F63B78 else c >>> 1)
      (c ^^^ b.setWidth 32)) (BitVec.allOnes 32))

end Sys2Proof.Machine
end

