-- ==== Sys2Proof/Machine/Moves.lean ====
section
/-! DEFINITION. The memory-move queue (R215 to R217, R225, R226): `MOVE`, `MFILL`, `DIGEST`. -/
namespace Sys2Proof.Machine

open Sys2Proof.Num

/-- One run copied bit for bit, codes and scales (R216 step 2), from run `so` to run `o`. -/
def copyRun (s : State) (g : Nat) (vs vd : View) (so o : List Nat) : State × WStat :=
  let cs := (List.range (vd.e 0)).map fun i => (i, vs.readCode s g i so)
  let ok := cs.filter fun c => vd.inShape c.1 o && !vd.tlogHit s g c.1 o
  let blocks := if vd.blk = 0 then [] else
    ((ok.map fun c => c.1 / vd.blk).eraseDups).map fun b => (b, (vs.byte s g (vs.scaleAddr so b)).toNat)
  let codes := ok.map fun c => (c.1, c.2.1)
  let zs := ok.map fun c => (c.1, (decode vd.fmt c.2.1).isZero && (blocks.find? fun b => b.1 == c.1 / vd.blk).map (·.2) != some 255)
  (if ok.isEmpty then s else vd.putCodes s g o codes blocks zs,
   { viol := cs.foldl (fun a c => a + c.2.2) 0 + (cs.length - ok.length),
     bytes := if ok.isEmpty then 0 else vd.putSize s g o codes blocks zs })

/-- Counts of a move: violations, clamps, bytes written. -/
def State.moveCounts (s : State) (g viol clamps bytes : Nat) : State :=
  ((s.mcount g Reg.MOVQ_CNT_VIOL viol).mcount g Reg.MOVQ_CNT_CLAMP clamps).mcount g Reg.MOVQ_PERF_BYTES bytes

/-- The counts that a write gathered, and `n` violations more. -/
def State.moveStat (s : State) (g n : Nat) (w : WStat) : State := s.moveCounts g (w.viol + n) w.clamps w.bytes

/-- Every run of a destination written with values that `f` reads for it. -/
def writeRuns (s : State) (g : Nat) (vd : View) (mode : RMode) (f : State → Nat → List Nat → Val × Nat) :
    State × WStat :=
  vd.runs.foldl (fun (a : State × WStat) o =>
    let vals := (List.range (vd.e 0)).map fun i => (i, f a.1 i o)
    let r := vd.writeRun a.1 g o (vals.map fun x => (x.1, x.2.1)) mode (a.1.rctx vd.tid)
    (r.1, (a.2.add r.2).add { viol := vals.foldl (fun n x => n + x.2.2) 0 })) (s, {})

/-- A contiguous store of a sparse move, and the bytes that it writes: those of the term log are ignored (R263). -/
def State.moveStore (s : State) (g a : Nat) (bs : List Byte) : State × Nat :=
  (s.storeDesc g a bs, ((List.range bs.length).filter fun i => !s.inTlog g (a + i)).length)

/-- A directory entry or a pattern that touches the term log counts once (R263). -/
def State.logHit (s : State) (g a n : Nat) : Nat := b2n ((List.range n).any fun i => s.inTlog g (a + i))

/-- A move between two sparse descriptors (R217); what of it falls into the term log is not written (R263). -/
def sparseMove (s : State) (g : Nat) (vs vd : View) : State :=
  let lim := s.rgnLimit vd.region
  let r := vs.tiles.foldl (fun (a : State × Nat × Nat × Nat) t =>
    let (s, off, viol, nb) := a
    let tl := vs.readTile s g t.1 t.2
    let rec_ := vs.bytes s g (vs.recAddr tl.dir.off) (64 * tl.dir.len)
    let at_ := vd.recAddr off
    let ent := vd.dirAddr t.1 t.2
    let viol := viol + s.logHit g ent 16
    if tl.malformed ∨ lim < at_ + rec_.length then
      let e := s.moveStore g ent tl.dir.spoiled.bytes
      (e.1, off, viol + 1, nb + e.2)
    else
      let pl := patLen tl.dir.enc tl.dir.nnz
      let lost := s.logHit g at_ pl + vd.recordHits s g (at_ + pl) (at_ + pl + scLen vd.blk tl.dir.nnz) tl.dir.nnz
      let x := s.moveStore g at_ rec_
      let capx := !(overCap (tl.entries.map (·.pos)) vd.gcap).isEmpty
      let e := x.1.moveStore g ent ({ tl.dir with capx := capx, off := off } : DirEnt).bytes
      (e.1, off + tl.dir.len, viol + tl.hits + lost, nb + x.2 + e.2)) (s, 0, 0, 0)
  r.1.moveCounts g r.2.2.1 0 r.2.2.2

/-- `MOVE` (R216, R217). A void source reads zeros at the extents that its image keeps (R82), a remote
one is asked for (R327). A move between two descriptors of
E8M0 copies the codes: R216 step 2 and the "=" of R33's table say so, where R33's prose has E8M0 as no destination (DEDUCED, log
entry 69). -/
def runMove (s : State) (g : Nat) (o : MoveOps) (dd da : W512) : State :=
  let rm3 := b2n (o.rm == 3)
  let src := viewOf da
  let dst := viewOf dd
  let sparse (v : Option View) : Bool := match v with
    | some v => v.layout == .sparse
    | none => false
  let s := s.mcount g Reg.MOVQ_CNT_VIOL rm3
  match src, dst with
  | some vs, some vd =>
    if sparse src && sparse dst then
      if vs.fmt = vd.fmt ∧ vs.blk = vd.blk ∧ vs.mx = vd.mx ∧ vs.ext = vd.ext ∧ vd.dev = s.devAddr then sparseMove (s.askView vs g) g vs vd
      else s.moveCounts g 1 0 0
    else if sparse src || sparse dst || vs.ext != vd.ext then s.moveCounts g 1 0 0
    else if !destOk s dst ∧ vd.fmt ≠ .e8m0 then s.moveCounts g 1 0 0
    else if vd.alias_ ∨ vd.dev ≠ s.devAddr then s.moveCounts g 1 0 0
    else if vs.fmt = vd.fmt ∧ vs.blk = vd.blk ∧ vs.mx = vd.mx then
      let r := vd.runs.foldl (fun (a : State × WStat) o =>
        let x := copyRun a.1 g vs vd o o
        (x.1, a.2.add x.2)) (s.askView vs g, {})
      r.1.moveStat g 0 r.2
    else if !convertible vs.fmt vd.fmt then s.moveCounts g 1 0 0
    else
      let r := writeRuns (s.askView vs g) g vd (RMode.ofCode o.rm.toNat) fun s i oc => vs.read s g i oc
      r.1.moveStat g 0 r.2
  | none, some vd =>
    if sparse dst || imgExts da != vd.ext then s.moveCounts g 1 0 0
    else if !destOk s dst then s.moveCounts g 2 0 0
    else
      let r := writeRuns s g vd (RMode.ofCode o.rm.toNat) fun _ _ _ => (.zero, 0)
      r.1.moveStat g 1 r.2
  | some _, none => s.moveCounts g 1 0 0
  | none, none => s.moveCounts g 2 0 0

/-- `MFILL` (R217). -/
def runMfill (s : State) (g : Nat) (o : MoveOps) (dd : W512) (a : W64) : State :=
  let s := s.mcount g Reg.MOVQ_CNT_VIOL (b2n (o.rm == 3))
  let dst := viewOf dd
  match dst with
  | some vd =>
    if !destOk s dst then s.moveCounts g 1 0 0
    else
      let r := writeRuns s g vd (RMode.ofCode o.rm.toNat) fun _ _ _ => (ofF32 (a.setWidth 32), 0)
      r.1.moveStat g 0 r.2
  | none => s.moveCounts g 1 0 0

/-- `DIGEST` (R226): a void tensor, or a remote one, gives a digest of zero. -/
def runDigest (s : State) (g : Nat) (da : W512) (a : W64) (rec_ : Bool) (label : W16) : State :=
  let r : BitVec 128 × Nat := match viewOf da with
    | some v => if v.dev = s.devAddr then (v.digest s g, (v.messageBits s g).2) else (0, 1)
    | none => (0, 1)
  let addr := a.toNat
  let ok := decide (addr % 16 = 0 ∧ addr + 16 ≤ 0x10000)
  let full := rec_ && decide (64 ≤ (s.mould g).digests.length)
  (s.updMould g fun m =>
    let m := if ok then { m with dmem := m.dmem.puts addr (leBytes 16 r.1.toNat) } else m
    if rec_ && !full then { m with digests := m.digests ++ [(label.toNat, r.1)] } else m).mcount g
      Reg.MOVQ_CNT_VIOL (r.2 + b2n (!ok) + b2n full)

end Sys2Proof.Machine
end

