-- ==== Sys2Proof/Machine/MouldRegs.lean ====
section
/-! DEFINITION. The mould register space as the pair and the service see it (R128 to R130, R163 to R165, R193 to R197,
R210 to R212): views that follow other state, and the one write operation. -/
namespace Sys2Proof.Machine

/-- Depth of queue q (R172). -/
def qDepth (q : Nat) : Nat :=
  match q with
  | 0 | 1 | 3 => 16
  | 2 => 4
  | _ => 8

/-- Number built from four-bit or eight-bit groups, entry i at bit w·i. -/
def packGroups (w : Nat) (l : List Nat) : Nat :=
  l.foldr (fun v acc => v + 2 ^ w * acc) 0

def AccSt.code : AccSt → Nat
  | .closed => 0 | .opened => 1 | .queued => 2 | .recomputing => 3

/-- The sum in a tile has terms in the term log: terms after its first (R118, R130). -/
def AccTile.logged (a : AccTile) : Bool :=
  match a.sum with
  | some o => decide (1 < o.terms.length)
  | none => false

/-- Term log in use, in 64 B units (R118, R127). -/
def Mould.logUsed (m : Mould) : Nat :=
  (List.range 8).foldl (fun a t => a + match (m.getAcc t).sum with
    | some o => 256 * (o.terms.length - 1) + 4 * o.prov.length
    | none => 0) 0

/-- `CTL_STATUS` (R194). -/
def ctlStatus (m : Mould) : Nat :=
  let qfull := match m.wait with
    | .room q _ => 2 ^ q
    | _ => 0
  let sumwait := match m.wait with
    | .sumGet _ _ => 1
    | .sumBranch _ _ _ _ => 1
    | _ => 0
  m.pc.toNat * 2 ^ 16 + qfull * 2 ^ 8 + sumwait * 4 + b2n m.halted * 2 + b2n m.running

/-- An instruction, not a token, stands at the head of queue q: its engine holds work. -/
def Mould.headWorks (m : Mould) (q : Nat) : Bool :=
  match m.queue q with
  | .work _ _ :: _ => true
  | _ => false

/-- A launch is running: it has popped a group (R189: it pops when it starts) and waits for the next. Every other launch starts and
ends in one step. -/
def Mould.launchRuns (m : Mould) : Bool :=
  match m.queue 1 with
  | .work _ (.vrun _ _ _ _ _ got _) :: _ => !got.isEmpty
  | _ => false

/-- `QDEPTH` [20:16], `BUSY` [1] and `STOPPED` [0] of an engine with queue q (R128, R195, R211). -/
def queueStatus (m : Mould) (q : Nat) (busy : Bool) : Nat :=
  (m.queue q).length * 2 ^ 16 + 2 * b2n busy + b2n m.stopped

/-- `VEC_FTQ` (R197). -/
def ftqView (m : Mould) : Nat :=
  packGroups 8 (m.ftq.map fun e => 128 + 64 * b2n e.first + e.tile % 8)

/-- Value of a mould register as a read sees it. -/
def mouldView (s : State) (g off : Nat) : W64 :=
  let m := s.mould g
  let n : Nat → W64 := BitVec.ofNat 64
  if off = Reg.MID_IDENT then n (s.devAddr * 2 ^ 48 + g % 256)
  else if off = Reg.MID_SEED then s.heats.seed
  else if off = Reg.MID_TOKENS then n (m.tokSignalled.toNat * 2 ^ 16 + m.tokIssued.toNat)
  else if off = Reg.CTL_STATUS then n (ctlStatus m)
  else if off = Reg.CTL_SUM_PEND then
    n (packGroups 1 ((List.range 8).map fun k => b2n (m.producers.any fun p => p.k == k)))
  else if off = Reg.MENG_STATUS then n (queueStatus m 0 (m.headWorks 0) + 8 * (match m.engWait with
    | .recomp _ _ => 1
    | _ => 0))
  else if off = Reg.MENG_CFG then setFld (m.reg off) 1 0 (b2n (s.modeBit 3))
  else if off = Reg.MENG_ACC_STATE then
    n (packGroups 4 ((List.range 8).map fun t =>
      let a := m.getAcc t
      a.st.code + 4 * b2n a.sat + 8 * b2n a.logged))
  else if off = Reg.MENG_TLOG_USED then n m.logUsed
  else if off = Reg.PAT_STATUS then
    let ph := match m.queue 0 with
      | .work _ (.compact _ _ _ _ _ _ p) :: _ => p
      | _ => 0
    n (b2n (ph == 1) + 2 * b2n (ph != 0) + 4 * b2n (m.headWorks 2))
  else if off = Reg.PAT_CFG then n (b2n (s.modeBit 1) + 2 * b2n (s.modeBit 0))
  else if off = Reg.PAT_EDIT_STATE then
    n (packGroups 4 ((List.range 8).map fun e =>
      match m.getEdit e with
      | some x => 1 + 2 * b2n (!x.drops.isEmpty) + 4 * b2n (!x.grows.isEmpty)
      | none => 0))
  else if off = Reg.VEC_STATUS then
    n (queueStatus m 1 m.launchRuns + m.ftq.length * 2 ^ 8 + 4 * b2n (!bitOf (m.reg Reg.VEC_CFG) 0))
  else if off = Reg.VEC_FTQ then n (ftqView m)
  else if off = Reg.VEC_EP_VALID then
    n (packGroups 1 ((List.range 16).map fun i => b2n (m.getEp i).valid))
  else if off = Reg.MOVQ_STATUS then n (queueStatus m 3 (m.headWorks 3))
  else m.reg off

/-- The count register of the block that holds a mould offset (R15, R16). -/
def mouldViolCounter (off : Nat) : Nat :=
  if 0x400 ≤ off ∧ off < 0x500 then Reg.MENG_CNT_VIOL
  else if 0x500 ≤ off ∧ off < 0x600 then Reg.PAT_CNT_VIOL
  else if 0x600 ≤ off ∧ off < 0x700 then Reg.VEC_CNT_VIOL
  else if 0x700 ≤ off ∧ off < 0x800 then Reg.MOVQ_CNT_VIOL
  else Reg.CTL_CNT_VIOL

/-- A write of `VEC_CFG.FTQ_EN` (R196): 0 clears it and any pending enable; 1 takes effect at once when the vector queue
and the finished-tile queue are empty, and is pending otherwise. -/
def ftqEnWrite (m : Mould) (en : Bool) : Mould :=
  if !en then { m with ftqPend := false }.setReg Reg.VEC_CFG 0
  else if bitOf (m.reg Reg.VEC_CFG) 0 then m
  else if m.queue 1 = [] ∧ m.ftq = [] then { m with ftqPend := false }.setReg Reg.VEC_CFG 1
  else { m with ftqPend := true }

/-- A write of `MENG_CFG` would pass the operand cache's 24 units of 64 KiB (R129). -/
def mengCfgBad (v : W64) : Bool := decide (24 < fld v 20 16 + fld v 12 8)

/-- A write to the mould register space (R14, R16, R129, R196, R210). -/
def mouldWrite (s : State) (g off : Nat) (v : W64) : State :=
  let row := mouldRow off
  if off = Reg.MENG_CFG ∧ mengCfgBad v then s.mcount g Reg.MENG_CNT_VIOL 1
  else
    let s := s.mcount g (mouldViolCounter off) (b2n (countedWrite row (mouldView s g off) v))
    match row with
    | none => s
    | some r =>
      if off = Reg.VEC_CFG then s.updMould g fun m => ftqEnWrite m (bitOf v 0)
      else if r.rw ||| r.w1c = 0 then s
      else if off = Reg.MENG_SPILL_BASE ∨ off = Reg.MENG_SPILL_LIMIT then
        s.updMould g fun m => { m.setReg off (mergeWrite r (m.reg off) v) with spillCut := false }
      else s.updMould g fun m => m.setReg off (mergeWrite r (m.reg off) v)

end Sys2Proof.Machine
end

