-- ==== Sys2Proof/Machine/RefSum.lean ====
section
/-! DEFINITION. The reference order of operations (R49 to R64): block sums, segment results and the window combination.
A sum that meets a NaN or an infinite operand is NaN (R55): it is `none` until it becomes binary32. -/
namespace Sys2Proof.RefSum

open Sys2Proof.Num

/-- Round a value m × 2^e to an integer number of units 2^q with sign (R27 on the integer grid). -/
def roundInt (v : Dy) (q : Int) (mode : RMode) (rnd : W32) : Int :=
  let k := roundUnits v.m.natAbs 1 v.e q mode rnd
  if v.m < 0 then -(k : Int) else k

/-- ⌊log₂ |v|⌋ of a non-zero dyadic number. -/
def Dy.flog (v : Dy) : Int := flog2 v.m.natAbs v.e

/-- Largest of a list of exponents. -/
def maxExp : List Int → Option Int
  | [] => none
  | e :: es => match maxExp es with
    | none => some e
    | some f => some (max e f)

/-- Operands of 8 bits or fewer take the exact rule, any wider operand the wide rule (R53). -/
def wideRule (a b : Fmt) : Bool := decide (8 < a.width) || decide (8 < b.width)

/-- `block_sum` of R53 over the pairs that are not skipped; none if an operand is NaN or infinite. -/
def blockSum (wide : Bool) (ps : List (Val × Val)) : Option Dy :=
  if ps.any (fun p => !p.1.isFin || !p.2.isFin) then none
  else
    let prods := (ps.map fun p => p.1.toDy.mul p.2.toDy).filter fun d => d.m ≠ 0
    if !wide then some (prods.foldl Dy.add Dy.zero)
    else
      match maxExp (prods.map Dy.flog) with
      | none => some Dy.zero
      | some eb => some ⟨prods.foldl (fun acc p => acc + roundInt p (eb - 62) .rne 0) 0, eb - 62⟩

/-- What R54 and R57 need of a sum: modes, stream context, element index. -/
structure SumCtx where
  seg : RMode
  win : RMode
  ctx : Ctx
  n : Nat
  deriving DecidableEq, Repr

/-- `segment_result` of R54 over (global block number, block sum) in ascending order: bits, and saturation (R56). A segment
with a NaN block is NaN and reports no saturation, also not one of a block before the NaN (log entry 66). -/
def segmentResult (c : SumCtx) (bs : List (Nat × Option Dy)) : W32 × Bool :=
  if bs.any (fun b => b.2.isNone) then (nan32, false)
  else
    bs.foldl (fun (a : W32 × Bool) b =>
      let word := if c.seg = .sr then segmentWord c.ctx b.1 c.n else 0
      let r := roundF32Sat ((ofF32 a.1).toDy.add (b.2.getD Dy.zero)) c.seg word
      (r.1, a.2 || r.2)) (0, false)

/-- Terms of a combination as exact values. -/
abbrev Terms := List (Nat × Val)

/-- Alignment exponent of R57 over live terms; none when there is none. -/
def alignOf (ts : Terms) : Option Int :=
  maxExp ((ts.filter fun t => !t.2.isZero).map fun t => Dy.flog t.2.toDy)

/-- A term that is NaN or infinite (R55). -/
def badTerm (t : Nat × Val) : Bool := !t.2.isFin

/-- Window sum of R57 at alignment exponent e, in units of 2^(e − 63). -/
def windowSum (c : SumCtx) (e : Int) (ts : Terms) : Int :=
  (ts.filter fun t => !t.2.isZero).foldl (fun w t =>
    w + roundInt t.2.toDy (e - 63) c.win (if c.win = .sr then windowWord c.ctx t.1 c.n else 0)) 0

/-- The final rounding of a window (R57): always RNE, saturating under R56. -/
def finishWindow (w e : Int) : W32 × Bool := roundF32Sat ⟨w, e - 63⟩ .rne 0

/-- `combine` of R57. -/
def combine (c : SumCtx) (ts : Terms) : W32 × Bool :=
  if ts.any badTerm then (nan32, false)
  else
    match alignOf ts with
    | none => (0, false)
    | some e => finishWindow (windowSum c e ts) e

/-- Binary32 terms as exact values. -/
def ofBits (ts : List (Nat × W32)) : Terms := ts.map fun t => (t.1, ofF32 t.2)

/-- Insert a number into a strictly rising list, once. -/
def insUniq (n : Nat) : List Nat → List Nat
  | [] => [n]
  | m :: t => if n < m then n :: m :: t else if n = m then m :: t else m :: insUniq n t

/-- The numbers of a list in rising order, each once: the order in which blocks are added and terms entered (R54). -/
def rising (l : List Nat) : List Nat := l.foldr insUniq []

/-- Segment results of one sum from its pairs (k, a, b), in any order; skipped terms are absent. Blocks are added in
ascending order (R54). -/
def segments (c : SumCtx) (wide : Bool) (ps : List (Nat × Val × Val)) : List (Nat × W32 × Bool) :=
  (rising (ps.map fun p => p.1 / 2048)).map fun j =>
    let mine := ps.filter fun p => p.1 / 2048 == j
    let blocks := rising (mine.map fun p => p.1 / 128)
    (j, segmentResult c (blocks.map fun g => (g, blockSum wide ((mine.filter fun p => p.1 / 128 == g).map (·.2)))))

/-- A whole sum of pairs in one place (R49 to R57). -/
def total (c : SumCtx) (wide : Bool) (ps : List (Nat × Val × Val)) : W32 × Bool :=
  let ss := segments c wide ps
  let r := combine c (ofBits (ss.map fun t => (t.1, t.2.1)))
  (r.1, r.2 || ss.any fun t => t.2.2)

/-- Context of a sum that writes no tensor: RNE in every step (R63). -/
def plainCtx : SumCtx := ⟨.rne, .rne, ⟨0, 0, 0⟩, 0⟩

/-- A summing reduction of plain binary32 values, term k from index k (R52). -/
def sumPlain (vs : List W32) (square : Bool) : W32 :=
  (total plainCtx true (vs.zipIdx.map fun p => (p.2, ofF32 p.1, if square then ofF32 p.1 else .one))).1

/-- A sum may have no more than 2³¹ terms (R59, R70). -/
def maxTerms : Nat := 2 ^ 31

/-- Term number of a tile's old value (R58). -/
def oldTerm : Nat := 0x80000000

end Sys2Proof.RefSum
end

