-- ==== Sys2Proof/Machine/Engine.lean ====
section
/-! DEFINITION. The sparse matrix engine (R99 to R126, R218, R231 to R240): staging, the terms of a product, opening,
adding to and closing sums, write-back, recomputation, export, and the accumulator moves. -/
namespace Sys2Proof.Machine

open Sys2Proof.Num

/-! ## Formats, classes, groups -/

/-- Formats that the engine accepts (R101). -/
def engFmt (f : Fmt) : Bool := sparseFmt f
def wideFmt (f : Fmt) : Bool := f == .e8m7 || f == .e6m9 || f == .e5m10

/-- Lane class of a product from its operands' formats (R100, R234). -/
def classOf (fs : List Fmt) : LaneClass :=
  if fs.any wideFmt then .bits16 else if !fs.isEmpty && fs.all narrowPlanar then .narrow else .bits8

/-- Columns per lane pass C (R100). -/
def LaneClass.cols : LaneClass → Nat
  | .narrow => 128
  | _ => 64
/-- Accumulator tiles of an output group (R100). -/
def LaneClass.tiles : LaneClass → Nat
  | .narrow => 4
  | _ => 2

/-- Columns that a row of a format is staged for (R218, R233). -/
def stageCols (f : Fmt) : Nat := if narrowPlanar f then 128 else 64
/-- Staged rows per buffer (R103). -/
def rowsPerBuf (f : Fmt) : Nat := if f.width = 6 ∨ f.width = 16 then 128 else 256

/-- The unit's record of a masked check retry (R126): counted, posted as a masked fault. -/
def State.maskedRetry (s : State) (g mech : Nat) (inject : Bool) : State :=
  let m := s.mould g
  let detail := m.pc.toNat + (match m.ckpt with
    | some c => c.num
    | none => 0) * 2 ^ 64
  ((s.updMould g fun m => { m.count Reg.MENG_CHK_RETRY 1 with retries := m.retries + 1 }).raiseFault
    { mech := mech, unit := g, cls := .masked, action := 1, inject := inject, detail := detail })

/-- An injection armed for this kind of operation mismatches once and its retry passes (R228); without comparisons
nothing is found (R378). -/
def State.takeInj (s : State) (g sel : Nat) : State :=
  let m := s.mould g
  if s.hchk && m.inj.contains sel then
    (s.setMould g { m with inj := m.inj.erase sel }).maskedRetry g (if sel = 0 then 1 else 2) true
  else s

/-! ## Staging (R103, R218, R233) -/

/-- One element of a slice: staged value, violations, and whether it counts as a zero for the row-zero flag. -/
def stageElem (v : View) (s : State) (g j n shift : Nat) : Staged × Nat × Bool :=
  if !v.inShape j [n] || v.tlogHit s g j [n] then (⟨.zero, 0, false⟩, 1, true)
  else
    let x := v.value s g j [n]
    let zb := v.zbit s g j [n]
    let e := if v.blk = 0 then 0 else scaleExp v.fmt v.mx (v.scale s g j [n])
    (⟨x.scale (-(shift : Int)), e, zb⟩, 0, if v.zbm then zb else x.isZero)

/-- One row of `nc` columns, and its violations. -/
def stageRow (v : View) (s : State) (g : Nat) (src : W512) (buf j n0 nc shift : Nat) : StagedRow × Nat :=
  let es := (List.range nc).map fun n => stageElem v s g j (n0 + n) shift
  ({ buf := buf, j := j, n0 := n0, crow := stageCols v.fmt, nc := nc, fmt := v.fmt, vals := es.map (·.1),
     zero := es.all (·.2.2), src := src }, es.foldl (fun a e => a + e.2.1) 0)

/-- Element n of a staged row; one that was not staged has scale exponent 0 in the span of R114 (log entry 67). -/
def StagedRow.el (r : StagedRow) (n : Nat) : Staged := r.vals.getD n ⟨.zero, 0, false⟩

/-- `TBLOAD` (R218). -/
def runTbload (s : State) (g : Nat) (o : MoveOps) (da : W512) (a b : W64) : State :=
  let v3 := b2n (o.rm == 3)
  match viewOf da with
  | none => s.mcount g Reg.MENG_CNT_VIOL (v3 + 1)
  | some v =>
    if v.layout = .sparse ∨ !engFmt v.fmt ∨ !v.nearMould s g then s.mcount g Reg.MENG_CNT_VIOL (v3 + 1)
    else
      let c := stageCols v.fmt
      let cap := rowsPerBuf v.fmt
      let nc := o.nc.toNat + 1
      let nr := o.nr.toNat + 1
      let room := (8 - o.buf.toNat) * cap
      let rows := (List.range (min nr room)).map fun i =>
        stageRow v s g da (o.buf.toNat + i / cap) (a.toNat + i) b.toNat (min nc c) 0
      let last := o.buf.toNat + cdiv (min nr room) cap
      let viol := v3 + b2n (decide (c < nc)) + b2n (decide (room < nr)) + rows.foldl (fun x r => x + r.2) 0
      (s.updMould g fun m =>
        { m with rows := rows.map (·.1) ++ m.rows.filter fun r => ¬(o.buf.toNat ≤ r.buf ∧ r.buf < last) }).mcount g
          Reg.MENG_CNT_VIOL viol

/-- The row that a product finds in buffers lo to hi (R233): the one staged last. -/
def findRow (rows : List StagedRow) (lo hi j : Nat) (slice : Option (Nat × Nat)) : Option StagedRow :=
  rows.find? fun r => decide (lo ≤ r.buf ∧ r.buf ≤ hi) && r.j == j &&
    match slice with
    | none => true
    | some (ko, sl) => r.n0 == ko + r.crow * sl

/-! ## First operands (R102, R105, R232) -/

/-- One position of the first operand: row and column in its tile, packed slot, value, scale exponent. -/
structure Pos where
  r : Nat
  c : Nat
  slot : Nat
  v : Val
  e : Int

/-- What a tile gives a tile-step: its positions, violations, groups over the cap, its number of packed results, and the
positions that take lane time and give no term: those of a dense tile or a probe that lie outside the shape or that a zero
bitmap marks (R107, R134). -/
structure TileIn where
  pos : List Pos
  viol : Nat
  cap : Nat
  nnz : Nat
  idle : Nat

/-- A first operand that can be used: the layout of its instruction, an accepted format, the own operand cache. -/
def firstOperand (s : State) (kind : ProdKind) (dw : W512) : Option View :=
  match viewOf dw with
  | some v =>
    if engFmt v.fmt && v.inOcache s && (if kind = .dmm then v.layout == .dense else v.layout == .sparse) then some v
    else none
  | none => none

/-- Positions of tile (tr, tc) of a dense A inside its shape (R232); elements that a zero bitmap marks are absent (R79). -/
def denseTile (v : View) (s : State) (g tr tc : Nat) : TileIn :=
  let es := (List.range (min 128 (v.e 1 - 128 * tr))).flatMap fun r =>
    (List.range (min 128 (v.e 0 - 128 * tc))).filterMap fun c =>
      if v.zbit s g (128 * tc + c) [128 * tr + r] then none
      else
        let x := v.read s g (128 * tc + c) [128 * tr + r]
        some ((⟨r, c, 128 * r + c, x.1,
          if v.blk = 0 then 0 else scaleExp v.fmt v.mx (v.scale s g (128 * tc + c) [128 * tr + r])⟩ : Pos), x.2)
  ⟨es.map (·.1), es.foldl (fun a e => a + e.2) 0, 0, 16384, 16384 - es.length⟩

/-- Every position of a probed tile inside the logical shape (R107). -/
def probeTile (v : View) (tr tc : Nat) : TileIn :=
  let ps := (List.range 16384).filterMap fun p =>
    if 128 * tr + p / 128 < v.e 1 ∧ 128 * tc + p % 128 < v.e 0 then some (⟨p / 128, p % 128, p, .one, 0⟩ : Pos) else none
  ⟨ps, 0, 0, 16384, 16384 - ps.length⟩

/-- Entries of a sparse tile as read once (R132), its bad entries counted (R86, R96), its groups over the cap (R97). -/
def sparseTile (v : View) (s : State) (g tr tc : Nat) : TileIn :=
  let t := v.readTile s g tr tc
  if t.malformed then ⟨[], 1, 0, 0, 0⟩
  else
    ⟨t.good.map fun e =>
      ⟨e.1.pos / 128, e.1.pos % 128, e.2, t.value v e.1.code e.2,
       if v.blk = 0 then 0 else scaleExp v.fmt v.mx (t.scales.getD (e.2 / v.blk) 0)⟩,
     t.badCount, (overCap (t.entries.map (·.pos)) v.gcap).length, t.entries.length, 0⟩

def firstTile (kind : ProdKind) (v : View) (s : State) (g tr tc : Nat) : TileIn :=
  if !v.inGrid tr tc then ⟨[], 1, 0, if kind = .sprobe then 16384 else 0, 0⟩
  else
    match kind with
    | .dmm => denseTile v s g tr tc
    | .sprobe => probeTile v tr tc
    | _ => sparseTile v s g tr tc

/-! ## The terms of a product -/

/-- A product's parameters as its instruction and registers give them (R230, R231, R453): `wfmt` is the format of `DW`, also
where it reads as void under R101 or R102; `rsv` counts the reserved bits of `RA` and `RB`. -/
structure Prod where
  kind : ProdKind
  o : ProdOps
  w : Option View
  wfmt : Option Fmt
  wimg : W512
  dout : W512
  fix : Nat
  first : Nat
  nt : Nat
  ncm1 : Nat
  orow : Nat
  ocol : Nat
  ko : Nat
  rsv : Nat
  viol : Nat

def Prod.outer (p : Prod) : Bool := p.kind == .spout || p.kind == .sprobe

def prodOf (s : State) (kind : ProdKind) (o : ProdOps) (dw dout : W512) (ra rb : W64) : Prod :=
  let w := firstOperand s kind dw
  let outer := kind == .spout || kind == .sprobe
  let rsv := b2n (fld ra 52 50 != 0) + b2n (outer && fld rb 63 42 != 0)
  { kind := kind, o := o, w := w, wfmt := (viewOf dw).map (·.fmt), wimg := dw, dout := dout, fix := fld ra 49 25, first := fld ra 24 0,
    nt := fld ra 56 53 + 1, ncm1 := fld ra 63 57, orow := fld rb 31 0, ocol := fld rb 63 32, ko := fld rb 41 0,
    rsv := rsv, viol := b2n w.isNone + rsv }

/-- Tiles taken (R231). -/
def Prod.coords (p : Prod) : List (Nat × Nat) :=
  if p.outer then [(p.fix, p.first)]
  else (List.range p.nt).map fun t => if p.kind = .spmmt then (p.first + t, p.fix) else (p.fix, p.first + t)

/-- Rows sought of slice sl: dY rows and X rows (R233). -/
def Prod.dyRow (p : Prod) (rows : List StagedRow) (sl r : Nat) : Option StagedRow :=
  findRow rows p.o.buf.toNat (p.o.xg.toNat - 1) (128 * p.fix + r) (some (p.ko, sl))
def Prod.xRow (p : Prod) (rows : List StagedRow) (sl c : Nat) : Option StagedRow :=
  findRow rows p.o.xg.toNat 7 (128 * p.first + c) (some (p.ko, sl))
def Prod.inRow (p : Prod) (rows : List StagedRow) (k : Nat) : Option StagedRow :=
  findRow rows p.o.buf.toNat 7 k none

/-- Every row that the instruction finds (R234). -/
def Prod.found (p : Prod) (rows : List StagedRow) : List StagedRow :=
  if p.outer then
    (List.range p.nt).flatMap fun sl =>
      (List.range 128).filterMap (p.dyRow rows sl) ++ (List.range 128).filterMap (p.xRow rows sl)
  else (List.range (128 * p.nt)).filterMap fun i => p.inRow rows (128 * p.first + i)

/-- The lane class (R100, R234): of `DW`'s format, whether or not the engine can read it, and of the rows found. -/
def Prod.cls (p : Prod) (rows : List StagedRow) : LaneClass := classOf (p.wfmt.toList ++ (p.found rows).map (·.fmt))

/-- Pairs of one element's sum: (k, a, b), skipped terms absent. -/
abbrev Pairs := List (Nat × Val × Val)

/-- What the tile-steps of a product give (R105 to R114): pairs by tile of the group and element, numbers of the
segments touched, packed results, and counts. -/
structure Sums where
  elems : Nat → List (Nat × Pairs)
  js : List Nat
  nres : Nat
  viol : Nat
  skip : Nat
  nz : Nat
  cap : Nat
  multi : Bool

/-- P > 1 under R114: the scale exponents of the issued pairs span more than 40. -/
def spans (es : List Int) : Bool :=
  match es with
  | [] => false
  | e :: t => decide (40 < t.foldl max e - t.foldl min e)

/-- A lane's work in a tile-step (R105): output row, contracted index, position, staged row. -/
structure Lane where
  o : Nat
  k : Nat
  p : Pos
  row : Option StagedRow

def zeroRow (r : Option StagedRow) : Bool :=
  match r with
  | some x => x.zero
  | none => false

def staged (r : Option StagedRow) (n : Nat) : Staged :=
  match r with
  | some x => x.el n
  | none => ⟨.zero, 0, true⟩

/-- A tile-step: what its tile gives, positions dropped, lanes issued. -/
structure InStep where
  t : TileIn
  dropped : Nat
  lanes : List Lane

def Prod.inStep (p : Prod) (s : State) (g : Nat) (rows : List StagedRow) (tr tc : Nat) : InStep :=
  let t : TileIn := match p.w with
    | some v => firstTile p.kind v s g tr tc
    | none => ⟨[], 0, 0, 0, 0⟩
  let all := t.pos.map fun e =>
    let k := if p.kind = .spmmt then 128 * tr + e.r else 128 * tc + e.c
    ({ o := if p.kind = .spmmt then e.c else e.r, k := k, p := e, row := p.inRow rows k } : Lane)
  let lanes := all.filter fun l => !zeroRow l.row
  ⟨t, all.length - lanes.length, lanes⟩


/-- Tile-steps of `SPMM`, `SPMMT` and `DMM` with N columns. A term whose row is not staged is an exact zero, also against a
NaN weight (log entry 21). -/
def innerSums (p : Prod) (s : State) (g : Nat) (rows : List StagedRow) (wide : Bool) (n : Nat) : Sums :=
  let steps := p.coords.map fun c => p.inStep s g rows c.1 c.2
  let live := (steps.flatMap (·.lanes)).filter fun l => l.row.isSome
  let byOut := (List.range 128).map fun o => live.filter fun l => l.o == o
  { elems := fun k => (List.range 4096).filterMap fun e =>
      let c := 64 * (k / 2) + e % 64
      if n ≤ c then none
      else
        let ps := (byOut.getD (64 * (k % 2) + e / 64) []).filterMap fun l =>
          let x := staged l.row c
          if x.skip then none else some (l.k, l.p.v, x.v)
        if ps.isEmpty then none else some (e, ps)
    js := RefSum.rising (p.coords.map fun c => (if p.kind = .spmmt then c.1 else c.2) / 16)
    nres := 0
    viol := totalBy (fun st => st.t.viol + b2n (st.lanes.any fun l => l.row.isNone)) steps
    skip := totalBy (·.dropped) steps
    nz := totalBy (fun st => st.lanes.length + st.t.idle) steps
    cap := totalBy (·.t.cap) steps
    multi := !wide && steps.any fun st =>
      spans ((st.lanes.filter fun l => l.row.isSome).flatMap fun l =>
        (List.range n).map fun c => l.p.e + (staged l.row c).sexp) }

/-- A lane of an outer product: position, dY row, X row. -/
structure OLane where
  p : Pos
  y : Option StagedRow
  x : Option StagedRow

/-- A slice's tile-step: positions dropped, lanes issued. -/
structure OutStep where
  dropped : Nat
  lanes : List OLane

def Prod.outStep (p : Prod) (t : TileIn) (rows : List StagedRow) (sl : Nat) : OutStep :=
  let dys := (List.range 128).map (p.dyRow rows sl)
  let xs := (List.range 128).map (p.xRow rows sl)
  let all := t.pos.map fun e => ({ p := e, y := dys.getD e.r none, x := xs.getD e.c none } : OLane)
  let lanes := all.filter fun l => !(zeroRow l.y || zeroRow l.x)
  ⟨all.length - lanes.length, lanes⟩

def OLane.live (l : OLane) : Bool := l.y.isSome && l.x.isSome
/-- Token origin of a lane's slice: that of its X row, also where its dY row was staged with another C_row (log entry
66). -/
def OLane.n0 (l : OLane) : Nat :=
  match l.x with
  | some r => r.n0
  | none => 0

/-- Tile-steps of `SPOUT` and `SPROBE` with N columns (R106 to R108, R234). A tile with results beyond a7 counts once in each
tile-step. -/
def outerSums (p : Prod) (s : State) (g : Nat) (rows : List StagedRow) (wide : Bool) (n c : Nat) : Sums :=
  let t0 : TileIn := match p.w with
    | some v => firstTile p.kind v s g p.fix p.first
    | none => ⟨[], 0, 0, if p.kind = .sprobe then 16384 else 0, 0⟩
  let t : TileIn := if p.ko % 128 = 0 then t0 else { t0 with pos := [], idle := 0 }
  let room := 4096 * (8 - p.o.acc.toNat)
  let steps := (List.range p.nt).map fun sl => p.outStep t rows sl
  let live := (steps.flatMap (·.lanes)).filter fun l => l.live && decide (l.p.slot < room)
  { elems := fun k => (List.range 4096).filterMap fun e =>
      let ps := (live.filter fun l => l.p.slot == 4096 * k + e).flatMap fun l =>
        (List.range n).filterMap fun i =>
          let a := staged l.y i
          let b := staged l.x i
          if a.skip || b.skip then none else some (l.n0 + i, a.v, b.v)
      if ps.isEmpty then none else some (e, ps)
    js := RefSum.rising ((List.range p.nt).map (fun sl => (p.ko + c * sl) / 2048)
      ++ live.flatMap fun l => [l.n0 / 2048, (l.n0 + (n - 1)) / 2048])
    nres := t.nnz
    viol := t.viol + b2n (p.ko % 128 != 0) + totalBy (fun st =>
      b2n (st.lanes.any fun l => !l.live) + b2n (decide (room < t.nnz))) steps
    skip := totalBy (·.dropped) steps
    nz := totalBy (fun st => st.lanes.length + t.idle) steps
    cap := t.cap
    multi := !wide && steps.any fun st =>
      spans ((st.lanes.filter fun l => l.live).flatMap fun l =>
        (List.range n).map fun i => (staged l.y i).sexp + (staged l.x i).sexp) }

def Prod.sums (p : Prod) (s : State) (g : Nat) (rows : List StagedRow) : Sums :=
  let cl := p.cls rows
  let n := min (p.ncm1 + 1) cl.cols
  if p.outer then outerSums p s g rows (cl == .bits16) n cl.cols else innerSums p s g rows (cl == .bits16) n

/-- Where the results of tile k of the group stand in the output (R107). A probe's results stand at their tile positions
(log entry 40). -/
def Prod.nmap (p : Prod) (s : State) (g k : Nat) : NMap :=
  if p.kind = .sprobe then .packed 128 ((List.range 4096).map fun e => 4096 * k + e)
  else if p.kind = .spout then
    match p.w with
    | some v =>
      let out : View := match viewOf p.dout with
        | some d => if d.layout = .sparse then d else v
        | none => v
      let t := v.readTile s g p.fix p.first
      .packed (out.e 0) (((t.entries.drop (4096 * k)).take 4096).map fun e => out.densePos p.fix p.first e.pos)
    | none => .packed 1 []
  else .grid (p.orow + 64 * (k % 2)) (p.ocol + 64 * (k / 2)) (imgExt p.dout 0)

/-- Element index n of R64. -/
def NMap.index (m : NMap) (e : Nat) : Nat :=
  match m with
  | .grid r c x => r + e / 64 + x * (c + e % 64)
  | .packed _ ns => ns.getD e 0

/-- Coordinates of an element in the output's shape; none for a packed place with no result. -/
def NMap.coords (m : NMap) (e : Nat) : Option (Nat × Nat) :=
  match m with
  | .grid r c _ => some (r + e / 64, c + e % 64)
  | .packed x ns => (ns[e]?).map fun n => (n % x, n / x)

def modeSR (b : Bool) : RMode := if b then .sr else .rne

/-- Segment results of tile k by element: (element, [(segment, result, saturated)]) (R53, R54), with the words of the run
seed and heat in which the product runs (R64). -/
def Prod.results (p : Prod) (s : State) (g : Nat) (seed : W64) (heat : Nat) (rows : List StagedRow) (sm : Sums) (k : Nat) :
    List (Nat × List (Nat × W32 × Bool)) :=
  let nm := p.nmap s g k
  let ctx : Ctx := ⟨seed, heat, imgTid p.dout⟩
  (sm.elems k).map fun e =>
    (e.1, RefSum.segments ⟨modeSR p.o.srs, .rne, ctx, nm.index e.1⟩ (p.cls rows == .bits16) e.2)

/-- Results of one segment number as a sparse map. -/
def termMap (res : List (Nat × List (Nat × W32 × Bool))) (j : Nat) : SMap W32 :=
  res.filterMap fun e => match e.2.find? (fun t => t.1 == j) with
    | some (_, b, _) => if b = 0 then none else some (e.1, b)
    | none => none

/-! ## Accumulator tiles (R57, R58, R116 to R120) -/

/-- Spill area in bytes: zero unless it lies wholly in the flask scratchpad of the mould's own crucible (R129, R274), and has since
it was set (R275). -/
def State.spillSize (s : State) (g : Nat) : Nat :=
  let m := s.mould g
  let a := (m.reg Reg.MENG_SPILL_BASE).toNat
  let b := (m.reg Reg.MENG_SPILL_LIMIT).toNat
  let c := g / 64
  if !m.spillCut ∧ flaskStart c ≤ a ∧ a < b ∧ b ≤ flaskStart c + stepBytes * s.scratchSteps c then b - a else 0

/-- Log capacity in 64 B units. -/
def State.logCap (s : State) (g : Nat) : Nat :=
  1024 * fld ((s.mould g).reg Reg.MENG_CFG) 12 8 + s.spillSize g / 64

/-- A binary32 value that makes a sum NaN (R55). -/
def badF32 (b : W32) : Bool := !(ofF32 b).isFin

/-- Flags of a tile as an instruction leaves it (R124): it has saturated; one of its results is NaN. -/
def AccTile.flags (a : AccTile) : MFlags :=
  { sat := a.sat, nanOut := match a.st, a.sum with
    | .opened, some o => o.terms.any fun t => t.2.any fun v => badF32 v.2
    | _, _ => a.vals.any fun v => badF32 v.2 }

/-- A tile saturates (R56, R120). -/
def Mould.saturate (m : Mould) (t : Nat) : Mould :=
  (m.setAcc t { m.getAcc t with sat := true }).orReg Reg.MENG_SAT (BitVec.ofNat 64 (2 ^ t))

/-- Combination of a tile's terms at element e (R57): none where it has no live term. -/
def OpenSum.combineAt (o : OpenSum) (seed : W64) (e : Nat) : Option (W32 × Bool) :=
  let ts := o.terms.filterMap fun t =>
    let b := SMap.get 0 t.2 e
    if b = 0 then none else some (t.1, b)
  if ts.isEmpty then none
  else some (RefSum.combine ⟨.rne, modeSR o.wrs, ⟨seed, o.heat, o.tid⟩, o.nmap.index e⟩ (RefSum.ofBits ts))

def Mould.groupFlags (m : Mould) (tiles : List (Nat × Nat)) : MFlags :=
  tiles.foldl (fun f t => f.or (m.getAcc t.2).flags) {}

/-- Close tile t (R58, R120): the combination of its terms becomes its value. -/
def Mould.closeTile (m : Mould) (seed : W64) (t : Nat) : Mould :=
  let a := m.getAcc t
  match a.st, a.sum with
  | .opened, some o =>
    let rs := (List.range 4096).filterMap fun e => (o.combineAt seed e).map fun r => (e, r)
    let m := m.setAcc t { a with vals := rs.filterMap (fun r => if r.2.1 = 0 then none else some (r.1, r.2.1)), st := .closed }
    if rs.any (·.2.2) then m.saturate t else m
  | _, _ => m

/-- A write of a tile as a tensor (R120): closed with the values, live saturation cleared. -/
def Mould.writeTile (m : Mould) (t : Nat) (vals : SMap W32) : Mould := m.setAcc t ⟨vals, .closed, false, none⟩

/-- Release a tile's log space after its write-back (R118). -/
def Mould.releaseLog (m : Mould) (t : Nat) : Mould := m.setAcc t { m.getAcc t with sum := none }

/-- One more term of an open sum within the log's capacity (R59, R118). -/
def Mould.addTerm (m : Mould) (cap t j : Nat) (v : SMap W32) : Mould × Bool :=
  let a := m.getAcc t
  match a.sum with
  | some o =>
    if RefSum.maxTerms ≤ o.terms.length ∨ (o.terms ≠ [] ∧ cap < m.logUsed + 256) then (m, false)
    else
      (m.setAcc t { a with sum := some { o with
        terms := o.terms ++ [(j, v)]
        prov := match o.prov.reverse with
          | p :: ps => (({ p with js := p.js ++ [j] } : Prov) :: ps).reverse
          | [] => [] } }, true)
  | none => (m, false)

/-- A product that adds into tile t's open sum breaks R59, R117 or R235. -/
def Mould.refusesAdd (m : Mould) (t : Nat) (add misaligned : Bool) (new : OpenSum) : Bool :=
  let a := m.getAcc t
  let differs := match a.sum with
    | some o => !(o.tid == new.tid && o.origin == new.origin && o.cls == new.cls && o.srs == new.srs && o.wrs == new.wrs)
    | none => false
  add && a.st == .opened && (differs || misaligned)

/-- Open tile t or add to it (R58, R59, R117, R118, R235): the new state, and whether the instruction is counted. A new sum
holds +0 in columns at or beyond N_COUNT (log entry 67). -/
def Mould.accumulate (m : Mould) (cap t : Nat) (add misaligned : Bool) (new : OpenSum)
    (terms : List (Nat × SMap W32)) (sat : Bool) : Mould × Bool :=
  let a := m.getAcc t
  let joins := add && a.st == .opened
  if m.refusesAdd t add misaligned new then (m, true)
  else
    let olds := if add then [(RefSum.oldTerm, a.vals)] else []
    let m := if joins then m
      else m.setAcc t ⟨[], .opened, add && a.sat, some { new with terms := olds, old := add, prov := [] }⟩
    if cap < m.logUsed + 4 then (m, true)
    else
      let a := m.getAcc t
      let m := m.setAcc t { a with sum := a.sum.map fun o => { o with prov := o.prov ++ new.prov } }
      let r := terms.foldl (fun (x : Mould × Bool) tm =>
        let y := x.1.addTerm cap t tm.1 tm.2
        (y.1, x.2 || !y.2)) (m, false)
      (if sat then r.1.saturate t else r.1, r.2)

/-! ## Write-back (R66, R67, R121 to R123) -/

/-- The fused operation on exact values (R121 step 2). -/
def fuseVal (fop : Nat) (y z : Val) : Val :=
  match fop with
  | 1 =>
    if y.isFin && z.isFin then
      let d := y.toDy.add z.toDy
      if d.m = 0 then .fin (y.isNeg && z.isNeg) 0 0 else d.toVal
    else .nan
  | 2 =>
    if y.isFin && z.isFin then
      let d := y.toDy.mul z.toDy
      .fin (y.isNeg != z.isNeg) d.m.natAbs d.e
    else .nan
  | _ => y

/-- A fused operand that can be read (R121, R236, R454). -/
def fusedOperand (s : State) (g : Nat) (df : W512) : Option View :=
  match viewOf df with
  | some v => if v.layout != .sparse && v.nearMould s g && (engFmt v.fmt || v.fmt == .e8m23 || v.fmt == .int32) then some v
              else none
  | none => none

/-- A write-back: its output, origin, columns, rounding, fused operation and operand; `shift` is 16 for tiles that were
recomputed (R67). -/
structure Wb where
  dout : W512
  orow : Nat
  ocol : Nat
  ncols : Nat
  rm : Nat
  fop : Nat
  df : W512
  shift : Nat
  spout : Option (Nat × Nat)

/-- What a write-back gathers: its flags, the tiles to recompute first, and all tiles that overflowed (R66). -/
structure WbOut where
  s : State
  flags : MFlags
  redo : List Nat
  ovf : List Nat

/-- A tile to write: its number in the group, its accumulator tile, its values by element. -/
abbrev WbTile := Nat × Nat × (Nat → Val)

/-- Values of column n of a group with their rows and tiles, rows rising, and the violations of the fused reads. A fused
operand's zero bitmap is not read: its stored code counts (log entry 67). -/
def Wb.column (w : Wb) (s : State) (g : Nat) (z : Option View) (ts : List WbTile) (n : Nat) :
    List (Nat × Val × Nat) × Nat :=
  let cells := (List.range 2).flatMap fun h =>
    match ts.find? (fun t => t.1 == 2 * (n / 64) + h) with
    | some t => (List.range 64).map fun r =>
      let i0 := w.orow + 64 * h + r
      let y := t.2.2 (64 * r + n % 64)
      let zv : Val × Nat := match z with
        | some v => v.read s g i0 [w.ocol + n]
        | none => (.zero, 0)
      (((i0, fuseVal w.fop y (if w.fop = 1 then zv.1.scale (-(w.shift : Int)) else zv.1), t.2.1) : Nat × Val × Nat), zv.2)
    | none => []
  (cells.map (·.1), cells.foldl (fun a c => a + c.2) 0)

/-- A destination with block scales whose overflows are recomputed (R67). -/
def recomputes (s : State) (v : View) : Bool :=
  v.blk != 0 && !s.modeBit 3 && (v.layout == .sparse || !s.modeBit 2)

/-- May tile t be computed again: it still has a record of its terms. -/
def canRedo (m : Mould) (t : Nat) : Bool :=
  match (m.getAcc t).sum with
  | some o => !o.prov.isEmpty
  | none => false

/-- Elements of a group's columns that a dense or planar output takes, each with its tile and how its conversion clamps. -/
def Wb.clampsOf (w : Wb) (v : View) (s : State) (g : Nat) (cols : List (Nat × List (Nat × Val × Nat))) : List (Nat × Clamp) :=
  cols.flatMap fun c =>
    let o := [w.ocol + c.1]
    let l := c.2.filter fun x => v.inShape x.1 o && !v.tlogHit s g x.1 o
    let vals := l.map fun x => (x.1, x.2.1)
    let cv := v.convRun o (v.blockScales s g o vals w.shift) vals (RMode.ofCode w.rm) (s.rctx v.tid) w.shift
    l.filterMap fun x => (cv.find? fun d => d.i0 == x.1).map fun d => (x.2.2, d.clamp)

/-- Clamped tiles set their bits in `MENG_SAT` (R32, log entry 67). An overflow that is written as it stands and clamps
nothing, its tile being saturated already, is counted with the clamps (R67, log entry 67), but for the write of a recomputation,
whose tile keeps the saturation of its first one: the bits, and that count. -/
def Mould.noteClamps (m : Mould) (ovf : List Nat) (cl : List (Nat × Clamp)) : Mould × Nat :=
  let hit := RefSum.rising ((cl.filter (·.2.any)).map (·.1))
  (hit.foldl (fun m t => m.orReg Reg.MENG_SAT (BitVec.ofNat 64 (2 ^ t))) m, (ovf.filter fun t => !hit.contains t).length)

/-- Write-back of a group through a dense or planar output. -/
def Wb.writeDense (w : Wb) (s : State) (g : Nat) (ts : List WbTile) : WbOut :=
  let z := if w.fop = 0 then none else fusedOperand s g w.df
  let vz := b2n (w.fop != 0 && z.isNone)
  let cols := (List.range w.ncols).map fun n => (n, w.column s g z ts n)
  let vf := cols.foldl (fun a c => a + c.2.2) vz
  let s := s.mcount g Reg.MENG_CNT_VIOL vf
  let m := s.mould g
  let sats := (ts.map (·.2.1)).filter fun t => (m.getAcc t).sat
  let none_ : WbOut := ⟨s, { viol := true, sat := !sats.isEmpty }, [], []⟩
  match viewOf w.dout with
  | some v =>
    if !destOk s (some v) then none_
    else
      let all := cols.map fun c => (c.1, c.2.1)
      let cl := w.clampsOf v s g all
      let ovf := RefSum.rising (sats ++ (cl.filter fun x => x.2 == .magnitude).map (·.1))
      let redo := if w.shift = 0 && recomputes s v then ovf.filter (canRedo m) else []
      let kept := if redo.isEmpty then all else all.map fun c => (c.1, c.2.filter fun x => !redo.contains x.2.2)
      let cl := if redo.isEmpty then cl else w.clampsOf v s g kept
      let r := kept.foldl (fun (a : State × WStat) c =>
        let x := v.writeRun a.1 g [w.ocol + c.1] (c.2.map fun x => (x.1, x.2.1)) (RMode.ofCode w.rm) (s.rctx v.tid) w.shift
        (x.1, a.2.add x.2)) (s, {})
      let nc := (r.1.mould g).noteClamps (if w.shift = 0 then ovf.filter fun t => !redo.contains t else []) cl
      ⟨((r.1.setMould g nc.1).mcount g Reg.MENG_CNT_CLAMP (r.2.clamps + nc.2)).mcount g Reg.MENG_CNT_VIOL r.2.viol,
       { sat := !sats.isEmpty, ovfWrite := !ovf.isEmpty, clamp := r.2.clamps != 0, viol := vf + r.2.viol != 0,
         nanOut := r.2.nan }, redo, ovf⟩
  | none => none_

/-- Write-back of packed results into the gradient tile at the same coordinates (R107): its scales are always chosen
(R401). -/
def Wb.writePacked (w : Wb) (s : State) (g nres tr tc : Nat) (ts : List WbTile) : WbOut :=
  let m := s.mould g
  let sats := (ts.map (·.2.1)).filter fun t => (m.getAcc t).sat
  let bad : WbOut := ⟨s.mcount g Reg.MENG_CNT_VIOL 1, { viol := true, sat := !sats.isEmpty }, [], []⟩
  match viewOf w.dout with
  | some v =>
    if v.layout ≠ .sparse ∨ v.dev ≠ s.devAddr ∨ !v.inGrid tr tc then bad
    else
      let t := v.readTile s g tr tc
      if t.malformed ∨ t.entries.length ≠ nres then bad
      else
        let mode := RMode.ofCode w.rm
        let ctx := s.rctx v.tid
        let vals := (List.range nres).filterMap fun q =>
          (ts.find? fun x => x.1 == q / 4096).map fun x => (q, x.2.2 (q % 4096), x.2.1)
        let conv (keep : List (Nat × Val × Nat)) : List (Nat × Nat) × List (Nat × Nat × Clamp × Nat) :=
          let blocks := if v.blk = 0 then [] else ((keep.map fun x => x.1 / v.blk).eraseDups).map fun b =>
            let c := chooseScale v.fmt v.mx ((keep.filter fun x => x.1 / v.blk == b).map (·.2.1))
            (b, if w.shift = 0 then c else min 0xFE (c + w.shift))
          (blocks, keep.map fun x =>
            let y := x.2.1.scale w.shift
            let y := match blocks.find? (fun b => b.1 == x.1 / v.blk) with
              | some b => y.scale (-(scaleExp v.fmt v.mx b.2))
              | none => y
            let n := v.densePos tr tc ((t.entries.getD x.1 ⟨0, 0, false⟩).pos)
            let r := convert v.fmt mode (if mode = .sr then elemWord ctx n else 0) y
            (x.1, r.1, r.2, x.2.2))
        let ovf := RefSum.rising (sats ++ (conv vals).2.filterMap fun x => if x.2.2.1 = .magnitude then some x.2.2.2 else none)
        let redo := if w.shift = 0 && recomputes s v then ovf.filter (canRedo m) else []
        let keep := vals.filter fun x => !redo.contains x.2.2
        let done := conv keep
        let codes := (List.range nres).map fun q => match done.2.find? (fun x => x.1 == q) with
          | some x => x.2.1
          | none => (t.entries.getD q ⟨0, 0, false⟩).code
        let scales := t.scales.zipIdx.map fun x => match done.1.find? (fun b => b.1 == x.2) with
          | some b => b.2
          | none => x.1
        let a := v.recAddr t.dir.off + patLen t.dir.enc nres
        let s := if keep.isEmpty then s
          else (s.storeDesc g a (scales.map (BitVec.ofNat 8 ·))).storeDesc g (a + scLen v.blk nres) (packValues v.fmt codes)
        let s := s.mcount g Reg.MENG_CNT_VIOL t.hits
        let clamps := (done.2.filter fun x => x.2.2.1.any).length
        let nc := (s.mould g).noteClamps (if w.shift = 0 then ovf.filter fun t => !redo.contains t else []) (done.2.map fun x => (x.2.2.2, x.2.2.1))
        ⟨(s.setMould g nc.1).mcount g Reg.MENG_CNT_CLAMP (clamps + nc.2),
         { sat := !sats.isEmpty, ovfWrite := !ovf.isEmpty, clamp := clamps != 0, viol := t.hits != 0,
           nanOut := keep.any fun x => x.2.1.isNan }, redo, ovf⟩
  | none => bad

/-- Write a group. A destination that takes no write counts once (R83, R84, R86). -/
def Wb.write (w : Wb) (s : State) (g nres : Nat) (ts : List WbTile) : WbOut :=
  match w.spout with
  | some (tr, tc) => w.writePacked s g nres tr tc ts
  | none =>
    let r := w.writeDense s g ts
    if destOk s (viewOf w.dout) then r else { r with s := r.s.mcount g Reg.MENG_CNT_VIOL 1 }

/-- Values of a closed tile. -/
def Mould.tileVal (m : Mould) (t : Nat) (e : Nat) : Val := ofF32 (SMap.get 0 (m.getAcc t).vals e)

/-- Place in the issue order of the instruction at the head of the matrix queue. -/
def Mould.headSeq (m : Mould) : Nat :=
  match m.queue 0 with
  | .work n _ :: _ => n
  | _ => 0

/-- Host-assisted overflow mode (R68): one event for each tile that overflowed, naming the instruction and the tile. -/
def State.ovfEvents (s : State) (g : Nat) (ovf : List Nat) : State :=
  if s.modeBit 3 then
    ovf.foldl (fun s t => s.postEvent (Config.ovfEvent s.heatNum g (s.mould g).headSeq t s.cnt)) s
  else s

/-- Close the group and write it: the flags so far, and the tiles that must be recomputed first. -/
def Wb.run (w : Wb) (s : State) (g nres : Nat) (tiles : List (Nat × Nat)) : WbOut :=
  let s := s.takeInj g 2
  let s := s.updMould g fun m => tiles.foldl (fun m t => m.closeTile s.heats.seed t.2) m
  let m := s.mould g
  let r := w.write s g nres (tiles.map fun t => (t.1, t.2, m.tileVal t.2))
  let s := r.s.updMould g fun m =>
    tiles.foldl (fun m t => if r.redo.contains t.2 then m.setAcc t.2 { m.getAcc t.2 with st := .recomputing }
      else m.releaseLog t.2) m
  { r with s := s.ovfEvents g r.ovf }

/-! ## Recomputation (R67, R123) -/

/-- The rows of a provenance record read again from memory; the activations scaled by 2⁻¹⁶. -/
def Prov.reread (pv : Prov) (s : State) (g : Nat) (outer : Bool) (xbuf : Nat) : List StagedRow :=
  pv.rows.filterMap fun r =>
    (viewOf r.2.1).map fun v =>
      (stageRow v s g r.2.1 r.1 r.2.2.1 r.2.2.2.1 r.2.2.2.2 (if outer && decide (xbuf ≤ r.1) then 0 else 16)).1

/-- Terms of one provenance record for tile t, recomputed. -/
def Prov.terms (pv : Prov) (s : State) (g t : Nat) : List (Nat × List (Nat × W32 × Bool)) :=
  match pv.work with
  | .product kind o dw dout _ ra rb _ =>
    let p := prodOf s kind o dw dout ra rb
    let rows := pv.reread s g p.outer o.xg.toNat
    (p.results s g pv.seed pv.heat rows (p.sums s g rows) (t - o.acc.toNat)).map fun e => (e.1, e.2.filter fun x => pv.js.contains x.1)
  | _ => []

/-- A tile's sum computed again: values 2⁻¹⁶ times the first ones, and whether a rounding saturated. -/
def OpenSum.again (o : OpenSum) (s : State) (g t : Nat) : List (Nat × W32) × Bool :=
  let ps := o.prov.map fun pv => pv.terms s g t
  let old : SMap W32 := match o.terms with
    | (_, v) :: _ => if o.old then v else []
    | [] => []
  let rs := (List.range 4096).filterMap fun e =>
    let olds : RefSum.Terms := match SMap.get 0 old e with
      | 0 => []
      | b => [(RefSum.oldTerm, (ofF32 b).scale (-16))]
    let news := ps.flatMap fun l => match l.find? (fun x => x.1 == e) with
      | some x => x.2
      | none => []
    if olds.isEmpty && news.isEmpty then none
    else
      let c := RefSum.combine ⟨.rne, modeSR o.wrs, ⟨s.heats.seed, o.heat, o.tid⟩, o.nmap.index e⟩
        (olds ++ RefSum.ofBits (news.map fun x => (x.1, x.2.1)))
      some (e, c.1, c.2 || (!badF32 c.1 && news.any (·.2.2)))
  (rs.map fun r => (r.1, r.2.1), rs.any (·.2.2))

/-- Recompute and write the tiles that overflowed (R67): each once, with its clamps, and counted. -/
def Wb.redo (w : Wb) (s : State) (g nres : Nat) (tiles : List (Nat × Nat)) : WbOut :=
  let m := s.mould g
  let again := tiles.map fun t => (t, match (m.getAcc t.2).sum with
    | some o => o.again s g t.2
    | none => ([], false))
  let s := s.updMould g fun m => again.foldl (fun m r =>
    let m := m.setAcc r.1.2 { m.getAcc r.1.2 with vals := r.2.1.filter (fun x => x.2 != 0), st := .closed }
    if r.2.2 then m.saturate r.1.2 else m) m
  let m := s.mould g
  let w := { w with shift := 16 }
  let r := w.write s g nres (tiles.map fun t => (t.1, t.2, m.tileVal t.2))
  { r with
    s := (r.s.updMould g fun m => tiles.foldl (fun m t => m.releaseLog t.2) m).mcount g Reg.MENG_CNT_OVFREC tiles.length
    flags := { r.flags with ovfRecomp := true, ovfWrite := true } }

/-! ## Exports (R122, R237, R334) -/

/-- Elements of a tile with their segment results, in ascending term order. -/
def AccTile.exportElems (a : AccTile) (k ncols : Nat) : List (Nat × Nat × List (Nat × W32)) :=
  match a.st, a.sum with
  | .opened, some o =>
    (List.range 4096).filterMap fun e =>
      match o.nmap.coords e with
      | some (i, j) =>
        let inCols := match o.nmap with
          | .grid _ _ _ => decide (64 * (k / 2) + e % 64 < ncols)
          | .packed _ _ => true
        if inCols then some (i, j, o.terms.map fun t => (t.1, SMap.get 0 t.2 e)) else none
      | none => none
  | _, _ => []

/-- Export a group (R122): its tiles return to closed and empty; with no collective its results are lost and counted. -/
def exportGroup (s : State) (g : Nat) (tiles : List (Nat × Nat)) (ncols : Nat) (coll : Option (Nat × Nat)) : State × Nat :=
  let m := s.mould g
  let elems := tiles.flatMap fun t => (m.getAcc t.2).exportElems t.1 ncols
  let bad := tiles.any fun t => match (m.getAcc t.2).sum with
    | some o => (m.getAcc t.2).st == .opened && o.old
    | none => false
  let s := s.updMould g fun m => tiles.foldl (fun m t => m.writeTile t.2 []) m
  match coll with
  | none => (s, 1)
  | some (grp, cseq) =>
    ({ s with runner := { s.runner with
        exports := s.runner.exports ++ [{ g := g, grp := grp, cseq := cseq, elems := elems, bad := bad }] } }, 0)

/-! ## Products (R105, R230 to R237) -/

/-- Retire a matrix instruction with its flags and violations. -/
def retireMatrix (s : State) (g : Nat) (f : MFlags) (viol : Nat) : State :=
  (s.mcount g Reg.MENG_CNT_VIOL viol).updMould g fun m => m.recordFlags { f with viol := f.viol || viol != 0 }

/-- Tiles of the output group by number: all of them for a pair or quad, those that hold results for a packed one. -/
def Prod.tiles (p : Prod) (cl : LaneClass) (nres : Nat) : List (Nat × Nat) :=
  if p.outer then (List.range (min (cdiv nres 4096) (8 - p.o.acc.toNat))).map fun k => (k, p.o.acc.toNat + k)
  else (List.range cl.tiles).map fun k => (k, p.o.acc.toNat + k)

/-- The group starts on its boundary (R108). -/
def Prod.aligned (p : Prod) (cl : LaneClass) : Bool := p.outer || p.o.acc.toNat % cl.tiles == 0

/-- Effective fused operation and the count for an ignored one (R230, R236). -/
def fusedOp (o : ProdOps) : Nat × Nat :=
  if o.fop = 0 then (0, 0) else if o.fop = 3 ∨ o.disp ≠ 1 then (0, 1) else (o.fop.toNat, 0)

def Prod.wb (p : Prod) (df : W512) (n : Nat) : Wb :=
  { dout := p.dout, orow := p.orow, ocol := p.ocol, ncols := n, rm := p.o.rm.toNat, fop := (fusedOp p.o).1, df := df,
    shift := 0, spout := if p.outer then some (p.fix, p.first) else none }

/-- The sum that tile k of a product's group opens, with its provenance. -/
def Prod.newSum (p : Prod) (s : State) (g : Nat) (w : Work) (rows : List StagedRow) (k : Nat) : OpenSum :=
  { tid := imgTid p.dout
    origin := if p.outer then (p.fix, p.first) else (p.orow + 64 * (k % 2), p.ocol + 64 * (k / 2))
    cls := p.cls rows, heat := s.heatNum, srs := p.o.srs, wrs := p.o.wrs, nmap := p.nmap s g k, terms := [], old := false
    prov := [{ work := w, seed := s.heats.seed, heat := s.heatNum,
               rows := (p.found rows).map fun r => (r.buf, r.src, r.j, r.n0, r.nc), js := [] }] }

/-- Element e of a tile that a product joins, or opens with its old value, is already NaN. -/
def AccTile.nanAt (a : AccTile) (add : Bool) (e : Nat) : Bool :=
  add && (match a.st, a.sum with
    | .opened, some o => o.terms.any fun t => badF32 (SMap.get 0 t.2 e)
    | _, _ => badF32 (SMap.get 0 a.vals e))

/-- What a product does to its group: the violation to count, and for its flags whether a sum saturated or a result is NaN. -/
structure AccRes where
  s : State
  viol : Bool
  sat : Bool
  nan : Bool

/-- Every tile of a product's group, opened or added to. Where the sum of one tile refuses the product, all its terms are
zero, in every tile (R59, R117, R235). A sum that is NaN takes no part in saturation (R55, log entry 66). -/
def Prod.accumulateAll (p : Prod) (s : State) (g : Nat) (w : Work) (rows : List StagedRow) (sm : Sums)
    (tiles : List (Nat × Nat)) : AccRes :=
  let mis := decide ((if p.outer then p.ko else 128 * p.first) % 2048 ≠ 0)
  let cap := s.logCap g
  let m := s.mould g
  let news := tiles.map fun t => (t, p.newSum s g w rows t.1)
  if news.any fun n => m.refusesAdd n.1.2 p.o.add mis n.2 then
    ⟨s.setMould g (news.foldl (fun m n =>
      if (m.getAcc n.1.2).st == .opened then m
      else (m.accumulate cap n.1.2 p.o.add mis { n.2 with prov := [] } [] false).1) m), true, false, false⟩
  else
    news.foldl (fun (a : AccRes) n =>
      let m := a.s.mould g
      let res := p.results s g s.heats.seed s.heatNum rows sm n.1.1
      let tile := m.getAcc n.1.2
      let sat := res.any fun e => e.2.any (·.2.2) && !e.2.any (fun x => badF32 x.2.1) && !tile.nanAt p.o.add e.1
      let r := m.accumulate cap n.1.2 p.o.add mis n.2 (sm.js.map fun j => (j, termMap res j)) sat
      ⟨a.s.setMould g r.1, a.viol || r.2, a.sat || sat, a.nan || res.any fun e => e.2.any fun x => badF32 x.2.1⟩)
      ⟨s, false, false, false⟩

/-- What an engine instruction leaves at its queue's head (R131): it cannot start, it stays with `engWait` set, or it has
retired. -/
inductive RunRes where
  | blocked
  | hold (s : State)
  | done (s : State)

/-- A product (R105, R236). An output that takes no write counts only where the disposition writes (R454, log entry 67). -/
def runProduct (s : State) (g : Nat) (kind : ProdKind) (o : ProdOps) (dw dout df : W512) (ra rb : W64)
    (coll : Option (Nat × Nat)) : RunRes :=
  let m := s.mould g
  let p := prodOf s kind o dw dout ra rb
  let rm3 := b2n (o.rm == 3)
  if (kind = .sprobe ∧ (o.disp = 1 ∨ o.disp = 2)) ∨ (p.outer ∧ o.xg ≤ o.buf) then
    .done (retireMatrix s g {} (rm3 + p.rsv + 1))
  else
    let cl := p.cls m.rows
    let nover := b2n (decide (cl.cols ≤ p.ncm1))
    let pre := rm3 + p.viol + nover + (fusedOp o).2
    if !p.aligned cl then .done (retireMatrix s g {} (pre + 1))
    else
      let sm := p.sums s g m.rows
      let tiles := p.tiles cl sm.nres
      if tiles.any fun t => (m.getAcc t.2).st == .queued then .blocked
      else
        let n := min (p.ncm1 + 1) cl.cols
        let s := if sm.nz = 0 then s else (if cl = .bits16 then s else s.takeInj g 0).takeInj g 1
        let ac := p.accumulateAll s g (.product kind o dw dout df ra rb coll) m.rows sm tiles
        let s := (((ac.s.mcount g Reg.MENG_PERF_NZ sm.nz).mcount g Reg.MENG_PERF_SKIP sm.skip).mcount g
          Reg.MENG_CNT_CAPOVF sm.cap)
        let viol := pre + sm.viol + b2n ac.viol
        let f : MFlags := { capOverflow := sm.cap != 0, sat := ac.sat, multiBand := sm.multi, viol := viol != 0,
                            nanOut := o.disp != 1 && ac.nan }
        let s := s.mcount g Reg.MENG_CNT_VIOL viol
        match o.disp.toNat with
        | 0 => .done (retireMatrix s g f 0)
        | 1 =>
          let r := (p.wb df n).run s g sm.nres tiles
          let f := f.or r.flags
          if r.redo.isEmpty then .done (retireMatrix r.s g f 0)
          else .hold (r.s.updMould g fun m => { m with engWait := .recomp r.redo f.bits })
        | 2 =>
          let s := s.updMould g fun m => tiles.foldl (fun m t => m.closeTile s.heats.seed t.2) m
          let f := f.or ((s.mould g).groupFlags tiles)
          if tiles.isEmpty || !bitOf ((s.mould g).reg Reg.VEC_CFG) 0 then .done (retireMatrix s g f 0)
          else .hold (s.updMould g fun m => { m with engWait := .push (tiles.map (·.2)) f.bits })
        | _ =>
          let f := f.or ((s.mould g).groupFlags tiles)
          let r := exportGroup s g tiles n coll
          .done (retireMatrix r.1 g f r.2)

/-! ## `ACCWR` and `ACCLD` (R239, R240) -/

/-- Tiles of a group of size code G that starts at its boundary. -/
def groupTiles (o : ProdOps) : Option (List (Nat × Nat)) :=
  if 2 < o.xg.toNat then none
  else if o.acc.toNat % 2 ^ o.xg.toNat ≠ 0 then none
  else some ((List.range (2 ^ o.xg.toNat)).map fun k => (k, o.acc.toNat + k))

def accWb (o : ProdOps) (dout df : W512) (rb : W64) : Wb :=
  { dout := dout, orow := fld rb 31 0, ocol := fld rb 63 32, ncols := if 2 ≤ o.xg.toNat then 128 else 64,
    rm := o.rm.toNat, fop := (fusedOp o).1, df := df, shift := 0, spout := none }

def runAccwr (s : State) (g : Nat) (o : ProdOps) (dout df : W512) (rb : W64) (coll : Option (Nat × Nat)) : RunRes :=
  let m := s.mould g
  let pre := b2n (o.rm == 3) + (fusedOp o).2
  match groupTiles o with
  | none => .done (retireMatrix s g {} (pre + 1))
  | some tiles =>
    if o.disp = 0 ∨ o.disp = 2 then .done (retireMatrix s g {} (pre + 1))
    else if tiles.any fun t => (m.getAcc t.2).st == .queued then .blocked
    else
      let s := s.mcount g Reg.MENG_CNT_VIOL pre
      let f : MFlags := { viol := pre != 0 }
      if o.disp = 1 then
        let r := (accWb o dout df rb).run s g 0 tiles
        let f := f.or r.flags
        if r.redo.isEmpty then .done (retireMatrix r.s g f 0)
        else .hold (r.s.updMould g fun m => { m with engWait := .recomp r.redo f.bits })
      else
        let r := exportGroup s g tiles 128 coll
        .done (retireMatrix r.1 g (f.or (m.groupFlags tiles)) r.2)

/-- `ACCLD` (R240): each element converted to binary32. -/
def runAccld (s : State) (g : Nat) (o : ProdOps) (dw : W512) (rb : W64) : RunRes :=
  let m := s.mould g
  let rm3 := b2n (o.rm == 3)
  match groupTiles o with
  | none => .done (s.mcount g Reg.MENG_CNT_VIOL (rm3 + 1))
  | some tiles =>
    if tiles.any fun t => (m.getAcc t.2).st == .queued then .blocked
    else
      let mode := RMode.ofCode o.rm.toNat
      let src : Option View := match viewOf dw with
        | some v => if v.layout != .sparse && v.nearMould s g then some v else none
        | none => none
      let read (i j : Nat) : W32 × Nat × Nat := match src with
        | some v =>
          let x := v.read s g i [j]
          let c := convert .e8m23 mode (if mode = .sr then elemWord (s.rctx v.tid) (v.linear i [j]) else 0) x.1
          (BitVec.ofNat 32 c.1, x.2, b2n c.2.any)
        | none => (0, 0, 0)
      let r := tiles.map fun t => (t.2, (List.range 4096).map fun e =>
        (e, read (fld rb 31 0 + 64 * (t.1 % 2) + e / 64) (fld rb 63 32 + 64 * (t.1 / 2) + e % 64)))
      let viol := rm3 + b2n src.isNone + r.foldl (fun a t => t.2.foldl (fun a e => a + e.2.2.1) a) 0
      let clamps := r.foldl (fun a t => t.2.foldl (fun a e => a + e.2.2.2) a) 0
      .done (((s.updMould g fun m => r.foldl (fun m t => m.writeTile t.1
        (t.2.filterMap fun e => if e.2.1 = 0 then none else some (e.1, e.2.1))) m).mcount g Reg.MENG_CNT_VIOL viol).mcount g
          Reg.MENG_CNT_CLAMP clamps)

/-! ## Leaving the wait at the queue's head -/

/-- The matrix instruction at the head, as write-back parameters. -/
def headWb (s : State) (g : Nat) : Option (Wb × List (Nat × Nat) × Nat) :=
  match (s.mould g).queue 0 with
  | .work _ (.product kind o dw dout df ra rb _) :: _ =>
    let p := prodOf s kind o dw dout ra rb
    let cl := p.cls (s.mould g).rows
    let nres := match kind, p.w with
      | .spout, some v => (firstTile .spout v s g p.fix p.first).nnz
      | .sprobe, _ => 16384
      | _, _ => 0
    some (p.wb df (min (p.ncm1 + 1) cl.cols), p.tiles cl nres, nres)
  | .work _ (.accwr o dout df rb _) :: _ => (groupTiles o).map fun t => (accWb o dout df rb, t, 0)
  | _ => none

/-- The recomputation that the head of the matrix queue waits for (R67, R123): the tiles are recomputed and written, and
the head retires with its flags. None when nothing waits. -/
def recomputeHead (s : State) (g : Nat) : Option State :=
  match (s.mould g).engWait, headWb s g with
  | .recomp ts f, some (w, tiles, nres) =>
    let r := w.redo s g nres (tiles.filter fun t => ts.contains t.2)
    some ((r.s.updMould g fun m =>
      { (m.setReg Reg.MENG_FLAGS (f ||| r.flags.bits)).orReg Reg.MENG_FLAGS_STICKY (f ||| r.flags.bits) with
        engWait := .none, queues := SMap.set [] m.queues 0 (m.queue 0).tail }))
  | _, _ => none

end Sys2Proof.Machine
end

