-- ==== Sys2Proof/Machine/Shard.lean ====
section
/-! DEFINITION. What `COMPACT` and the risers share: pattern control blocks (R145 to R147), shards and chunks (R284 to
R288), the chunk journal (R289), the chunk digests (R300), publishing (R283), and the state-stream ring (R305, R306). -/
namespace Sys2Proof.Machine

open Sys2Proof.Num

/-! ## Pattern control blocks -/

/-- A pattern control block (R145), and whether its reserved fields are zero and it and its tables are aligned. -/
structure Pcb where
  capgrow : Bool
  regrow : Bool
  nnzMax : Nat
  wbase : Nat
  wsl : Nat
  sbase : Nat
  ssl : Nat
  ttbase : Nat
  formOk : Bool
  deriving DecidableEq, Repr

/-- The block at a local address as mould g reads it. -/
def readPcb (s : State) (g a : Nat) : Pcb :=
  let w (i : Nat) : Nat := s.wordAt g (a + 8 * i) 8
  { capgrow := bits (w 0) 16 16 = 1, regrow := bits (w 0) 15 15 = 1, nnzMax := bits (w 0) 14 0, wbase := bits (w 1) 39 0,
    wsl := bits (w 2) 23 0, sbase := bits (w 3) 47 0, ssl := bits (w 4) 23 0, ttbase := bits (w 5) 47 0,
    formOk := decide (a % 64 = 0) && (windowOf a).isSome && decide (bits (w 0) 63 17 = 0 ∧ bits (w 1) 63 40 = 0 ∧
      bits (w 2) 63 24 = 0 ∧ bits (w 3) 63 48 = 0 ∧ bits (w 4) 63 24 = 0 ∧ bits (w 5) 63 48 = 0 ∧ w 6 = 0 ∧ w 7 = 0 ∧
      bits (w 3) 5 0 = 0 ∧ bits (w 5) 5 0 = 0) }

/-- Length in bytes of a record of n non-zeros that the device writes (R90, R94). -/
def recLen (v : View) (n : Nat) : Nat := patLen (chooseEnc n) n + scLen v.blk n + valLen v.fmt n

/-- Column and state record lengths (R286). -/
def colLen (n : Nat) : Nat := roundup64 (2 * n)
def srecLen (n : Nat) : Nat := 5 * colLen n

def View.ntiles (v : View) : Nat := v.tileRows * v.tileCols

/-- Validity of a block for W (R147). -/
def Pcb.ok (p : Pcb) (s : State) (w : View) : Bool :=
  let inside (a n : Nat) : Bool := s.rgnAlloc w.region && decide (s.rgnBase w.region ≤ a ∧ a + n ≤ s.rgnLimit w.region)
  p.formOk && decide (1 ≤ p.nnzMax ∧ p.nnzMax ≤ 16384 ∧ recLen w p.nnzMax ≤ 64 * p.wsl ∧ srecLen p.nnzMax ≤ 64 * p.ssl)
    && inside (w.recAddr p.wbase) (128 * w.ntiles * p.wsl) && inside p.sbase (128 * w.ntiles * p.ssl)
    && inside p.ttbase (8 * w.ntiles)

/-- Record offset of working slot b and address of state slot b of tile t (R146). -/
def Pcb.workOff (p : Pcb) (t b : Nat) : Nat := p.wbase + (2 * t + b) * p.wsl
def Pcb.stateAddr (p : Pcb) (t b : Nat) : Nat := p.sbase + 64 * (2 * t + b) * p.ssl

/-- Working slot that holds the live record, if either does (R146). -/
def Pcb.liveSlot (p : Pcb) (t off : Nat) : Option Nat :=
  if off = p.workOff t 0 then some 0 else if off = p.workOff t 1 then some 1 else none

/-- Live state slot: slot 1 for a tile whose record lies in neither (R287). -/
def Pcb.stateSlot (p : Pcb) (t off : Nat) : Nat := (p.liveSlot t off).getD 1

/-! ## Shards and chunks -/

/-- The riser that owns the `SHARD` region that holds a local address (R257, R270). -/
def State.riserOf (s : State) (a : Nat) : Option Nat :=
  match s.regionAt a with
  | some n =>
    let pl := s.reg (rgnOff Reg.MEM_RGN_PLACE n)
    if fld pl 63 62 = 2 ∧ windowOf a = some .hbm then some (fld pl 58 56) else none
  | none => none

/-- Offset of word w (0 KEY, 1 MTID, 2 PCB, 3 JNL) of shard entry e of riser r (R309). -/
def shdOff (r e w : Nat) : Nat := riserOff r (Reg.RISER_SHD_KEY + 32 * e + 8 * w)

/-- Valid entry of riser r with a role and a TID. -/
def State.shardEntry (s : State) (r role tid : Nat) : Option Nat :=
  (List.range 64).find? fun e =>
    let k := s.reg (shdOff r e 0)
    bitOf k 63 && decide (fld k 62 62 = role ∧ fld k 23 0 = tid)

/-- Owner entry of a local shard: its riser and its entry (R284). -/
def State.ownerOf (s : State) (v : View) : Option (Nat × Nat) :=
  if v.dev ≠ s.devAddr then none
  else match s.riserOf v.base with
    | some r => (s.shardEntry r 0 v.tid).map fun e => (r, e)
    | none => none

/-- A shard that a riser works on: descriptor, its riser, entry and block. -/
structure Shard where
  v : View
  r : Nat
  e : Nat
  pcb : Pcb
  jnl : Nat
  key : W64
  mtid : W64

def State.shard (s : State) (v : View) (r e : Nat) : Shard :=
  { v := v, r := r, e := e, pcb := readPcb s 0 (fld (s.reg (shdOff r e 2)) 47 0), jnl := fld (s.reg (shdOff r e 3)) 47 0,
    key := s.reg (shdOff r e 0), mtid := s.reg (shdOff r e 1) }

/-- Tiles per chunk, chunks, and the tiles of a chunk (R285). -/
def Shard.ct (h : Shard) : Nat := 65536 / max 1 h.pcb.nnzMax
def Shard.ch (h : Shard) : Nat := cdiv h.v.ntiles h.ct
def Shard.chunkTiles (h : Shard) (c : Nat) : List Nat :=
  (List.range h.ct).filterMap fun i => if c * h.ct + i < h.v.ntiles then some (c * h.ct + i) else none
def Shard.chunkOf (h : Shard) (t : Nat) : Nat := t / h.ct

/-- [a, a + n) lies in a region placed `SHARD` on riser r's stack. -/
def State.onShard (s : State) (r a n : Nat) : Bool :=
  decide (s.riserOf a = some r) && s.inHbmRegion a n

/-- Directory, records area, PCB, slots and journal lie where R284 and R289 require. -/
def Shard.placed (h : Shard) (s : State) : Bool :=
  s.onShard h.r h.v.base (16 * h.v.ntiles) && s.onShard h.r (fld (s.reg (shdOff h.r h.e 2)) 47 0) 64
    && s.onShard h.r h.v.aux 64 && s.onShard h.r h.pcb.sbase (128 * h.v.ntiles * h.pcb.ssl)
    && decide (h.jnl % 64 = 0) && s.onShard h.r h.jnl (64 * h.ch)

/-! ## The journal (R289) -/

structure Jnl where
  cheat : Nat
  bank : Nat
  uheat : Nat
  bad : Bool
  lphase : Nat
  phase : Nat
  wdig : BitVec 128
  sdig : BitVec 128
  deriving DecidableEq, Repr

def Shard.jnlAddr (h : Shard) (c : Nat) : Nat := h.jnl + 64 * c

def readJnl (s : State) (a : Nat) : Jnl :=
  let w (i : Nat) : Nat := s.wordAt 0 (a + 8 * i) 8
  { cheat := bits (w 0) 63 16, bank := bits (w 0) 0 0, uheat := bits (w 1) 63 16, bad := bits (w 1) 4 4 = 1,
    lphase := bits (w 1) 3 2, phase := bits (w 1) 1 0, wdig := BitVec.ofNat 128 (w 2 + w 3 * 2 ^ 64),
    sdig := BitVec.ofNat 128 (w 4 + w 5 * 2 ^ 64) }

/-- Write a whole entry at once; reserved bits of W1 and W6 to W7 keep what they hold (log entry 41). -/
def writeJnl (s : State) (a : Nat) (j : Jnl) : State :=
  let w1 := s.wordAt 0 (a + 8) 8
  let keep := s.bytesAt 0 (a + 48) 16
  s.store 0 a (leBytes 8 (j.cheat % 2 ^ 48 * 65536 + j.bank % 2)
    ++ leBytes 8 (j.uheat % 2 ^ 48 * 65536 + bits w1 15 5 * 32 + b2n j.bad * 16 + j.lphase % 4 * 4 + j.phase % 4)
    ++ leBytes 16 j.wdig.toNat ++ leBytes 16 j.sdig.toNat ++ keep)

def Shard.jnlAt (h : Shard) (s : State) (c : Nat) : Jnl := readJnl s (h.jnlAddr c)

/-! ## State records (R286) -/

/-- n little-endian 16-bit words. -/
def readCol (s : State) (a n : Nat) : List Nat := (List.range n).map fun i => s.wordAt 0 (a + 2 * i) 2
def writeCol (s : State) (a : Nat) (l : List Nat) : State := s.store 0 a (l.flatMap fun x => leBytes 2 x)

/-- Addresses of the columns of a record of n non-zeros: masters, first and second moments of a bank. -/
def masterCol (a : Nat) : Nat := a
def m1Col (a n bank : Nat) : Nat := a + colLen n * (1 + 2 * bank)
def m2Col (a n bank : Nat) : Nat := a + colLen n * (2 + 2 * bank)

/-- A tile of the shard with its index and its live state address. -/
structure STile where
  t : Nat
  tile : Tile
  st : Nat

def Shard.tileAt (h : Shard) (s : State) (t : Nat) : STile :=
  let tl := h.v.readTile s 0 (t / h.v.tileCols) (t % h.v.tileCols)
  ⟨t, tl, h.pcb.stateAddr t (h.pcb.stateSlot t tl.dir.off)⟩

def STile.nnz (x : STile) : Nat := x.tile.entries.length

/-! ## Digests (R300) -/

def Shard.wdig (h : Shard) (s : State) (c : Nat) : BitVec 128 :=
  digestBits ((h.chunkTiles c).flatMap fun t => tileFields h.v (h.tileAt s t).tile) h.v.lenWord s.heats.key

/-- Inside the logical shape (R96). -/
def View.posInShape (v : View) (tr tc p : Nat) : Bool :=
  decide (128 * tr + p / 128 < v.e 1 ∧ 128 * tc + p % 128 < v.e 0)

def Shard.sdigFields (h : Shard) (s : State) (bank t : Nat) : List (Nat × Nat) :=
  let x := h.tileAt s t
  let n := x.nnz
  let ms := readCol s x.st n
  let m1 := readCol s (m1Col x.st n bank) n
  let m2 := readCol s (m2Col x.st n bank) n
  x.tile.entries.zipIdx.flatMap fun e =>
    if h.v.posInShape x.tile.tr x.tile.tc e.1.pos then
      [(h.v.densePos x.tile.tr x.tile.tc e.1.pos * 65536 + ms.getD e.2 0, 64),
       (m2.getD e.2 0 * 65536 + m1.getD e.2 0, 32)]
    else []

def Shard.sdig (h : Shard) (s : State) (c bank : Nat) : BitVec 128 :=
  digestBits ((h.chunkTiles c).flatMap fun t => h.sdigFields s bank t) (2 * 2 ^ 64 + 2 ^ 71) s.heats.key

/-- The shard digest over the chunks' `WDIG` values. -/
def shardDigest (s : State) (ws : List (BitVec 128)) : BitVec 128 :=
  digestBits (ws.map fun w => (w.toNat, 128)) 0 s.heats.key

/-! ## Publishing (R283) -/

/-- Scales and values of one tile written again from its masters, with their padding (R90), as one write; its clamps are counted
(R32). -/
def Shard.publishTile (h : Shard) (s : State) (t : Nat) : State :=
  let x := h.tileAt s t
  if x.tile.malformed then s
  else
    let n := x.nnz
    let vals := (readCol s x.st n).map fun m => decode .e6m9 m
    let scales := if h.v.blk = 0 then [] else (List.range (cdiv n h.v.blk)).map fun b =>
      chooseScale h.v.fmt h.v.mx ((vals.drop (b * h.v.blk)).take h.v.blk)
    let out := packedConvert h.v scales vals
    let a := h.v.recAddr x.tile.dir.off + patLen x.tile.dir.enc n
    (s.store 0 a (padTo (scLen h.v.blk n) (scales.map (BitVec.ofNat 8 ·))
      ++ padTo (valLen h.v.fmt n) (packValues h.v.fmt (out.map (·.1))))).count (riserOff h.r Reg.RISER_CNT_CLAMP) (clampCount out)

def Shard.publish (h : Shard) (s : State) (c : Nat) : State :=
  (h.chunkTiles c).foldl (fun s t => h.publishTile s t) s

/-! ## The state-stream ring (R305, R306) -/

def State.ringSize (s : State) : Nat := (s.reg Reg.RISER_SS_LIMIT).toNat - (s.reg Reg.RISER_SS_BASE).toNat

def State.ringValid (s : State) : Bool :=
  decide (0 < s.ringSize) && s.inHbmRegion (s.reg Reg.RISER_SS_BASE).toNat s.ringSize

/-- The stream is enabled. -/
def State.ringOn (s : State) : Bool := bitOf (s.reg Reg.RISER_SS_CFG) 0

/-- Records that leave: in hardware pacing all of them, in host-assisted pacing while whole credits cover them. -/
def flushRecords (host : Bool) : Nat → List (List Byte) → List (List Byte) × List (List Byte) × Nat
  | c, [] => ([], [], c)
  | c, r :: t =>
    if host && decide (c < r.length) then ([], r :: t, c)
    else
      let x := flushRecords host (if host then c - r.length else c) t
      (r :: x.1, x.2)

/-- The session that takes the state stream: the holder's, or else the first that is open. -/
def State.streamSession (s : State) : Option W32 :=
  let open_ := s.host.sessions.filter (·.opened)
  match open_.find? fun x => x.sid.toNat == s.field Reg.HOST_LEASE 63 32 with
  | some x => some x.sid
  | none => open_.head?.map (·.sid)

/-- Records leave through the host port while a session is open (R305, R352). -/
def State.flushStream (s : State) : State :=
  match s.streamSession with
  | none => s
  | some sid =>
    let x := flushRecords (s.modeBit 11) s.host.credit s.host.streamOut
    let s := x.1.foldl (fun s r => s.transmit sid 5 .stream r) s
    { s with host := { s.host with
        out := s.host.out ++ x.1.map HostOut.stream, streamOut := x.2.1, credit := x.2.2 } }

/-- A record of R306: header and payload. -/
def streamRecord (r : RingRec) (sseq : Nat) : List Byte :=
  let n := cdiv r.payload.length 64
  leBytes 8 (r.type % 16 * 2 ^ 60 + r.riser % 16 * 2 ^ 56 + r.heat % 2 ^ 48)
    ++ leBytes 8 (r.index % 2 ^ 32 * 2 ^ 32 + r.tid % 2 ^ 24)
    ++ leBytes 8 sseq ++ leBytes 8 n ++ leBytes 16 r.dig.toNat ++ leBytes 16 0 ++ padTo (64 * n) r.payload

/-- Store bytes into the ring from HEAD on, wrapping at its end. -/
def State.ringStore (s : State) (bs : List Byte) : State :=
  let base := (s.reg Reg.RISER_SS_BASE).toNat
  let head := (s.reg Reg.RISER_SS_HEAD).toNat
  let k := min bs.length (s.ringSize - head)
  (s.store 0 (base + head) (bs.take k)).store 0 base (bs.drop k)

/-- Place a record. With `EN` = 0 none is formed. None: it must wait, because it does not fit or the ring is not valid. -/
def State.ringPlace (s : State) (r : RingRec) : Option State :=
  if !s.ringOn then some s
  else
    let sseq := (s.reg Reg.RISER_SS_SEQ).toNat
    let bs := streamRecord r sseq
    if s.ringValid && decide (s.host.ringUsed + bs.length ≤ s.ringSize) then
      let s' := s.ringStore bs
      let head := (s.reg Reg.RISER_SS_HEAD).toNat
      let s' := (s'.setReg Reg.RISER_SS_HEAD (BitVec.ofNat 64 ((head + bs.length) % s.ringSize))).setReg Reg.RISER_SS_SEQ
        (BitVec.ofNat 64 (sseq + 1))
      some ({ s' with host := { s'.host with
        ringUsed := s'.host.ringUsed + bs.length, streamOut := s'.host.streamOut ++ [bs] } }.flushStream)
    else none

/-- A record that must not overtake those that wait (R307). -/
def State.ringPut (s : State) (r : RingRec) : Option State :=
  if s.ringOn && !s.heats.endWait.isEmpty then none else s.ringPlace r

/-- Records that wait go into the ring in their order (R307). -/
def flushEndsIn : List RingRec → State → State
  | [], s => { s with heats := { s.heats with endWait := [] } }
  | e :: t, s => match s.ringPlace e with
    | some s' => flushEndsIn t s'
    | none => { s with heats := { s.heats with endWait := e :: t } }

/-- A record joins those that wait, and all that have room go. -/
def State.ringQueue (s : State) (r : RingRec) : State :=
  flushEndsIn (s.heats.endWait ++ [r]) s

/-- This tile's `PATTERN` record still waits for the ring (R299, R305). -/
def State.patternWaits (s : State) (r tid t : Nat) : Bool :=
  s.heats.endWait.any fun e => e.type == 2 && e.riser == r && e.tid == tid && e.index == t

def State.flushEnds (s : State) : State := if s.heats.endWait = [] then s else flushEndsIn s.heats.endWait s

/-- Payload of a `CHUNK` record (R306). -/
def Shard.chunkPayload (h : Shard) (s : State) (c bank : Nat) : List Byte :=
  (h.chunkTiles c).flatMap fun t =>
    let x := h.tileAt s t
    let n := x.nnz
    let colBytes (a : Nat) : List Byte := padTo (colLen n) ((readCol s a n).flatMap fun w => leBytes 2 w)
    leBytes 64 (t * 2 ^ 32 + n) ++ colBytes x.st ++ colBytes (m1Col x.st n bank) ++ colBytes (m2Col x.st n bank)

end Sys2Proof.Machine
end

