-- ==== Sys2Proof/Machine/Pattern.lean ====
section
/-! DEFINITION. Pruning, regrowth and compaction (R138 to R161, R241, R299): what `PRUNE`, `GROW` and `COMPACT` do when they
run, and the roll-forward of a committed chunk. -/
namespace Sys2Proof.Machine

open Sys2Proof.Num

/-- What an instruction posts when it writes nothing that depends on failed work, or commits nothing (R149, R380). -/
def allOnes : W64 := BitVec.allOnes 64

/-! ## Edit slots (R138) -/

/-- The live tile that W names, if W is a local sparse descriptor, the tile lies in its grid and its record is not
malformed (R140). -/
def liveTile (s : State) (g : Nat) (w : Option View) (tr tc : Nat) : Option (View × Tile × (W64 × W64)) :=
  match w with
  | some v =>
    if v.layout = .sparse ∧ v.dev = s.devAddr ∧ v.inGrid tr tc then
      let t := v.readTile s g tr tc
      if t.malformed then none else some (v, t, v.dirWords s g tr tc)
    else none
  | none => none

/-- The slot as it stands for this tile: bound to it with the same base entry, or empty and now bound. -/
def slotFor (m : Mould) (e tid tr tc : Nat) (base : W64 × W64) : Option Edit :=
  match m.getEdit e with
  | none => some ⟨tid, tr, tc, base, [], []⟩
  | some x => if x.tid = tid ∧ x.tr = tr ∧ x.tc = tc ∧ x.base = base then some x else none

/-- Positions in ascending order, without repeats. -/
def insertPos (p : Nat) : List Nat → List Nat
  | [] => [p]
  | q :: t => if p < q then p :: q :: t else if p = q then q :: t else q :: insertPos p t

def unionPos (a b : List Nat) : List Nat := b.foldl (fun l p => insertPos p l) a

/-! ## Selection (R139, R141, R142) -/

/-- A candidate with its key. -/
abbrev Key := Nat × Val

/-- Smallest first, ties by position. -/
def insSmall (k : Key) : List Key → List Key
  | [] => [k]
  | q :: t => if Val.absLt k.2 q.2 || (!Val.absLt q.2 k.2 && decide (k.1 < q.1)) then k :: q :: t else q :: insSmall k t

/-- Largest first, ties by position. -/
def insLarge (k : Key) : List Key → List Key
  | [] => [k]
  | q :: t => if Val.absLt q.2 k.2 || (!Val.absLt k.2 q.2 && decide (k.1 < q.1)) then k :: q :: t else q :: insLarge k t

/-- Magnitude order with infinities above every finite value; equal infinities compare equal (R139). -/
def magLess (a b : Val) : Bool := Val.absLt a.abs b.abs

/-- `prune_select` of R141 over candidates that are not NaN. -/
def pruneSelect (cands : List Key) (scope k : Nat) (t : Val) : List Nat :=
  if scope = 2 then if t.isNan then [] else (cands.filter fun c => magLess c.2 t).map (·.1)
  else
    let smallest (l : List Key) : List Nat := ((l.foldl (fun acc c => insSmall c acc) []).take k).map (·.1)
    if scope = 0 then
      ((cands.map fun c => c.1 / 128).eraseDups).flatMap fun r => smallest (cands.filter fun c => c.1 / 128 == r)
    else smallest cands

/-- State of the scan of R142: NNZ, taken by row or tile, non-zeros by group of eight, passed over, chosen. -/
structure GrowScan where
  nnz : Nat
  taken : SMap Nat
  occ : SMap Nat
  passed : Nat
  out : List Nat

/-- One candidate of R142's loop; k = none takes no count limit (R159). -/
def growVisit (scope : Nat) (k : Option Nat) (nnzMax : Nat) (cap : Nat) (a : GrowScan) (p : Nat) : GrowScan :=
  let grp := if scope = 0 then p / 128 else 0
  if k = some (SMap.get 0 a.taken grp) then a
  else if nnzMax < a.nnz + 1 then { a with passed := a.passed + 1 }
  else if cap ≠ 0 ∧ cap < SMap.get 0 a.occ (p / 8) + 1 then { a with passed := a.passed + 1 }
  else
    { nnz := a.nnz + 1, taken := SMap.set 0 a.taken grp (SMap.get 0 a.taken grp + 1),
      occ := SMap.set 0 a.occ (p / 8) (SMap.get 0 a.occ (p / 8) + 1), passed := a.passed, out := a.out ++ [p] }

/-- The scan's start: live positions less the drops, plus the grows of the slot. -/
def growStart (live : List Nat) (x : Edit) : GrowScan :=
  let now := (live.filter fun p => !x.drops.contains p) ++ x.grows
  { nnz := live.length - x.drops.length + x.grows.length, taken := [],
    occ := now.foldl (fun o p => SMap.set 0 o (p / 8) (SMap.get 0 o (p / 8) + 1)) [], passed := 0, out := [] }

/-! ## Host lists (R159, R160) -/

/-- Entries of run 0 of a list up to 0xFFFF or its end. -/
def hostList (s : State) (g : Nat) (l : View) : List Nat :=
  ((List.range (l.e 0)).map fun i => (l.readCode s g i [0]).1).takeWhile (· != 0xFFFF)

/-- Entries in order, each judged by `ok` (accept, reject and count, or pass over): accepted, counted, passed over. An
entry that is ignored plays no part in the order of the later ones (log entry 42). -/
def judgeList (ok : Nat → Nat) : Option Nat → List Nat → List Nat × Nat × Nat
  | _, [] => ([], 0, 0)
  | prev, p :: t =>
    let bad := decide (16384 ≤ p) || (match prev with
      | some q => decide (p ≤ q)
      | none => false)
    if bad then
      let r := judgeList ok prev t
      (r.1, r.2.1 + 1, r.2.2)
    else
      match ok p with
      | 0 =>
        let r := judgeList ok (some p) t
        (p :: r.1, r.2.1, r.2.2)
      | 1 =>
        let r := judgeList ok prev t
        (r.1, r.2.1 + 1, r.2.2)
      | _ =>
        let r := judgeList ok prev t
        (r.1, r.2.1, r.2.2 + 1)

/-- A list descriptor: `DENSE` UINT16 of rank 2, local (R159). -/
def listView (s : State) (d : W512) : Option View :=
  match viewOf d with
  | some v => if v.layout = .dense ∧ v.fmt = .uint16 ∧ imgFld d 0 59 57 = 2 ∧ v.dev = s.devAddr then some v else none
  | none => none

/-! ## `PRUNE` and `GROW` -/

/-- An instruction of the riddle that changes nothing: counted once, posts 0 (R140, R161, R241). -/
def patViol (s : State) (g : Nat) : State × W64 := (s.mcount g Reg.PAT_CNT_VIOL 1, 0)

/-- Key of each live position: Q's packed value (R140), and how many entries of Q are bad (R86, R96). Q is sparse, in the operand
cache, with the same NNZ. -/
def pruneKeys (s : State) (g : Nat) (q : Option View) (t : Tile) : Option (List Key × Nat) :=
  match q with
  | some v =>
    if v.layout = .sparse ∧ v.inOcache s ∧ v.inGrid t.tr t.tc then
      let k := v.readTile s g t.tr t.tc
      if k.malformed ∨ k.entries.length ≠ t.entries.length then none
      else some (t.good.map fun e => (e.1.pos, k.value v (k.entries.getD e.2 ⟨0, 0, false⟩).code e.2), k.badCount)
    else none
  | none => none

/-- The positions that a `PRUNE` newly drops (R138), NaN keys met, and violations of its key tile or list; none is a violation of
the whole. -/
def pruneChoice (s : State) (g : Nat) (q : W512) (t : Tile) (x : Edit) (scope : Nat) (k : W64) (hostMode : Bool) :
    Option (List Nat × Nat × Nat) :=
  if hostMode then
    (listView s q).map fun l =>
      let live := t.good.map (·.1.pos)
      let r := judgeList (fun p => if live.contains p then 0 else 1) none (hostList s g l)
      (r.1.filter fun p => !x.drops.contains p, 0, r.2.1)
  else
    (pruneKeys s g (viewOf q) t).map fun ks =>
      let cands := ks.1.filter fun c => !x.drops.contains c.1
      let nans := (cands.filter fun c => c.2.isNan).length
      (pruneSelect (cands.filter fun c => !c.2.isNan) scope (fld k 31 0) (ofF32 (k.setWidth 32)), nans, ks.2)

/-- `PRUNE` (R140, R141, R159). The bad entries of the live tile that it reads are counted (R86, R96). -/
def runPrune (s : State) (g : Nat) (o : PatOps) (w q : W512) (tile k : W64) (hostMode : Bool) : State × W64 :=
  let tr := fld tile 49 25
  let tc := fld tile 24 0
  if o.scope = 3 then patViol s g
  else
    match liveTile s g (viewOf w) tr tc with
    | none => patViol s g
    | some (v, t, base) =>
      match slotFor (s.mould g) o.slot.toNat v.tid tr tc base with
      | none => patViol s g
      | some x =>
        match pruneChoice s g q t x o.scope.toNat k hostMode with
        | none => patViol s g
        | some (out, nans, viol) =>
          (((s.updMould g fun m => m.setEdit o.slot.toNat (some { x with drops := unionPos x.drops out })).mcount g
            Reg.PAT_CNT_NAN nans).mcount g Reg.PAT_CNT_VIOL (viol + t.badCount), BitVec.ofNat 64 out.length)

/-- Tiles of the probe quad (R241). -/
def probeQuad (o : PatOps) : List Nat := (List.range 4).map fun k => 4 * b2n o.pq + k

/-- The whole scan of a `GROW` in its mode: scan, NaN keys, list violations, entries passed over by R160. -/
def growChoice (s : State) (g : Nat) (o : PatOps) (v : View) (t : Tile) (x : Edit) (l : Option View) (k : Nat)
    (tmin : Val) (p : Pcb) (key : Nat → Val) : GrowScan × Nat × Nat × Nat :=
  let live := t.good.map (·.1.pos)
  let cap := if p.capgrow then v.gcap else 0
  let start := growStart live x
  let free (q : Nat) : Bool := v.posInShape t.tr t.tc q && !x.grows.contains q
    && (!live.contains q || (x.drops.contains q && p.regrow))
  let byKey (cs : List Nat) (kk : Nat) : GrowScan × Nat :=
    let ks := cs.map fun q => (q, key q)
    let big := if tmin.isNan then [] else ks.filter fun c => !c.2.isNan && magLess tmin c.2
    (((big.foldl (fun acc c => insLarge c acc) []).map (·.1)).foldl (growVisit o.scope.toNat (some kk) p.nnzMax cap) start,
     (ks.filter fun c => c.2.isNan).length)
  match l with
  | none =>
    let r := byKey ((List.range 16384).filter free) k
    (r.1, r.2, 0, 0)
  | some l =>
    let j := judgeList (fun q =>
      if !v.posInShape t.tr t.tc q then 1
      else if live.contains q then
        if !x.drops.contains q then 1 else if p.regrow then 0 else 2
      else 0) none (hostList s g l)
    let cs := j.1.filter fun q => !x.grows.contains q
    if k = 0xFFFFFFFF then (cs.foldl (growVisit o.scope.toNat none p.nnzMax cap) start, 0, j.2.1, j.2.2)
    else
      let r := byKey cs k
      (r.1, r.2, j.2.1, j.2.2)

/-- `GROW` (R142, R143, R159); none: a tile of the quad is queued (R190). The bad entries of the live tile that it reads are counted
(R86, R96). -/
def runGrow (s : State) (g : Nat) (o : PatOps) (w l : W512) (tile k tmin pcb : W64) (pcbOk hostMode : Bool) :
    Option (State × W64) :=
  let tr := fld tile 49 25
  let tc := fld tile 24 0
  let kk := fld k 31 0
  if 2 ≤ o.scope.toNat ∨ !pcbOk then some (patViol s g)
  else
    match liveTile s g (viewOf w) tr tc with
    | none => some (patViol s g)
    | some (v, t, base) =>
      match slotFor (s.mould g) o.slot.toNat v.tid tr tc base with
      | none => some (patViol s g)
      | some x =>
        let lv := listView s l
        if hostMode && lv.isNone then some (patViol s g)
        else
          let reads := !(hostMode && kk == 0xFFFFFFFF)
          if reads && (probeQuad o).any fun a => ((s.mould g).getAcc a).st == .queued then none
          else
            let s := if reads then s.updMould g fun m => (probeQuad o).foldl (fun m a => m.closeTile s.heats.seed a) m else s
            let m := s.mould g
            let key (q : Nat) : Val := m.tileVal (4 * b2n o.pq + q / 4096) (q % 4096)
            let r := growChoice s g o v t x (if hostMode then lv else none) kk (ofF32 (tmin.setWidth 32))
              (readPcb s g pcb.toNat) key
            some ((((s.updMould g fun m => m.setEdit o.slot.toNat (some { x with grows := unionPos x.grows r.1.out })).mcount g
              Reg.PAT_CNT_NAN r.2.1).mcount g Reg.PAT_CNT_VIOL (r.2.2.1 + t.badCount)).mcount g Reg.PAT_CNT_PASSED (r.1.passed + r.2.2.2),
              BitVec.ofNat 64 r.1.out.length)

/-! ## The tile table and claims (R148, R153, R154) -/

def Pcb.ttAddr (p : Pcb) (t : Nat) : Nat := p.ttbase + 8 * t

/-- An entry of the tile table. -/
def ttEntry (heat : Nat) (pending : Bool) (slot : Nat) : Nat := heat % 2 ^ 48 * 65536 + 4 * b2n pending + 2 * slot + 1

def putTT (s : State) (p : Pcb) (t v : Nat) : State := s.store 0 (p.ttAddr t) (leBytes 8 v)

/-- A claim on a tile of a shard is held (R153). -/
def State.claimed (s : State) (r tid t : Nat) : Bool := (s.riser r).claims.any fun c => c.1 == tid && c.2.1 == t
def State.addClaim (s : State) (r tid t g : Nat) : State :=
  s.setRiser r { s.riser r with claims := (tid, t, g) :: (s.riser r).claims }
def State.dropClaim (s : State) (r tid t : Nat) : State :=
  s.setRiser r { s.riser r with claims := (s.riser r).claims.filter fun c => ¬(c.1 = tid ∧ c.2.1 = t) }
/-! ## Roll-forward of a committed chunk (R295 steps 7 to 9, R297) -/

/-- Steps 7 to 9 for a chunk whose entry reads `COMMITTED`; none: its record must wait for the ring. -/
def Shard.finishChunk (h : Shard) (s : State) (c : Nat) : Option State :=
  let j := h.jnlAt s c
  let placed := if bitOf h.key 61 then
      s.ringPut ⟨1, h.r, j.cheat, c, h.v.tid, h.chunkPayload s c j.bank, j.sdig⟩
    else some s
  placed.map fun s =>
    let s := h.publish s c
    writeJnl s (h.jnlAddr c) { h.jnlAt s c with phase := 0, wdig := h.wdig s c }

/-- The riser has this chunk open. -/
def State.chunkOpen (s : State) (r e c : Nat) : Bool :=
  match (s.riser r).opened with
  | some o => o.entry == e && o.chunk == c
  | none => false

/-! ## `COMPACT` (R149 to R152, R299) -/

/-- Outcome of a `COMPACT` at the head of the matrix queue. -/
inductive CompactRes where
  | wait (s : State) (phase : Nat)
  | done (s : State) (v : W64)

/-- The new packed contents (R150, R151): surviving positions with their state words, grown ones with zeros. -/
def repack (t : Tile) (x : Edit) (ms m1 m2 : List Nat) : List (Nat × Nat × Nat × Nat) :=
  let keep := t.good.filterMap fun e =>
    if x.drops.contains e.1.pos then none
    else some ((e.1.pos, ms.getD e.2 0, m1.getD e.2 0, m2.getD e.2 0) : Nat × Nat × Nat × Nat)
  x.grows.foldl (fun l p => insPos ((p, 0, 0, 0) : Nat × Nat × Nat × Nat) l) keep

/-- The slot that a compaction writes (R149): the one that does not hold the live record, or 0. -/
def Shard.spareSlot (h : Shard) (y : STile) : Nat :=
  match h.pcb.liveSlot y.t y.tile.dir.off with
  | some l => 1 - l
  | none => 0

/-- The tile that a compaction makes (R150): its packed contents and its record. -/
def Shard.newTile (h : Shard) (s : State) (y : STile) (x : Edit) :
    List (Nat × Nat × Nat × Nat) × (List Byte × Nat × Bool × Nat) :=
  let n := y.nnz
  let bank := (h.jnlAt s (h.chunkOf y.t)).bank
  let ps := repack y.tile x (readCol s y.st n) (readCol s (m1Col y.st n bank) n) (readCol s (m2Col y.st n bank) n)
  (ps, buildRecord h.v (ps.map fun p => (p.1, decode .e6m9 p.2.1)))

/-- Steps 6 and 7: the tile table, then the new state record and the new record in slot b′; the clamps of its conversion are
counted (R32). -/
def Shard.writeSpare (h : Shard) (s : State) (g t : Nat) (x : Edit) : State :=
  let y := h.tileAt s t
  let b := h.spareSlot y
  let bank := (h.jnlAt s (h.chunkOf t)).bank
  let w := h.newTile s y x
  let n' := w.1.length
  let a := h.pcb.stateAddr t b
  let s := putTT s h.pcb t (ttEntry s.heatNum true b)
  let s := writeCol s (masterCol a) (w.1.map (·.2.1))
  let s := writeCol s (m1Col a n' bank) (w.1.map (·.2.2.1))
  let s := writeCol s (m2Col a n' bank) (w.1.map (·.2.2.2))
  (s.store 0 (h.v.recAddr (h.pcb.workOff t b)) w.2.1).mcount g Reg.MENG_CNT_CLAMP w.2.2.2.2

/-- Step 8: the directory entry, which is the commit, and the counts of R162; the digests follow at once (R299), so that a
compaction cut off before step 9 leaves a chunk that agrees with its journal entry. -/
def Shard.commitTile (h : Shard) (s : State) (g tr tc : Nat) (x : Edit) : State :=
  let t := tr * h.v.tileCols + tc
  let y := h.tileAt s t
  let w := h.newTile s y x
  let s := s.store 0 (h.v.dirAddr tr tc)
    ({ capx := w.2.2.2.1, enc := w.2.2.1, nnz := w.1.length, off := h.pcb.workOff t (h.spareSlot y),
       len := w.2.1.length / 64 } : DirEnt).bytes
  let c := h.chunkOf t
  let j := h.jnlAt s c
  let s := writeJnl s (h.jnlAddr c) { j with sdig := h.sdig s c j.bank, wdig := h.wdig s c }
  ((((s.mcount g Reg.PAT_CNT_VIOL y.tile.badCount).mcount g Reg.PAT_CNT_PRUNED
    (y.tile.good.filter fun e => x.drops.contains e.1.pos).length).mcount g Reg.PAT_CNT_GROWN x.grows.length).mcount g
    Reg.PAT_CNT_COMMIT 1)

/-- The tile table entry of tile t as step 9 leaves it. -/
def Shard.closedTT (h : Shard) (s : State) (t : Nat) : Nat :=
  let tt := s.wordAt 0 (h.pcb.ttAddr t) 8
  ttEntry (bits tt 63 16) false (bits tt 1 1)

/-- The `PATTERN` record of a commit (R306). -/
def Shard.patternRecord (h : Shard) (s : State) (tr tc : Nat) : RingRec :=
  let t := tr * h.v.tileCols + tc
  let w := h.v.dirWords s 0 tr tc
  let d := DirEnt.ofWords w.1.toNat w.2.toNat
  ⟨2, h.r, s.heatNum, t, h.v.tid, leBytes 8 w.1.toNat ++ leBytes 8 w.2.toNat ++ leBytes 8 (h.closedTT s t) ++ leBytes 40 0
    ++ s.bytesAt 0 (h.v.recAddr d.off) (patLen d.enc d.nnz), (h.jnlAt s (h.chunkOf t)).sdig⟩

/-- The record enters the stream at the commit, or waits for the ring: also where the compaction is cut off there (R156). -/
def Shard.streamCommit (h : Shard) (s : State) (tr tc : Nat) : State :=
  if bitOf h.key 61 && s.ringOn then s.ringQueue (h.patternRecord s tr tc) else s

/-- Step 9 (R299): the tile table, the claim, the slot. None: the record still waits for the ring. -/
def Shard.closeCompact (h : Shard) (s : State) (g slot tr tc : Nat) : Option State :=
  let t := tr * h.v.tileCols + tc
  if s.patternWaits h.r h.v.tid t then none
  else some (((putTT s h.pcb t (h.closedTT s t)).dropClaim h.r h.v.tid t).updMould g fun m => m.setEdit slot none)

/-- Empty the slot and post all ones: nothing was committed. -/
def compactNone (s : State) (g slot cnt : Nat) : CompactRes :=
  .done ((s.mcount g cnt 1).updMould g fun m => m.setEdit slot none) allOnes

/-- Step 9, or its wait. -/
def compactClose (h : Shard) (s : State) (g slot tr tc : Nat) : CompactRes :=
  match h.closeCompact s g slot tr tc with
  | none => .wait s 2
  | some s => .done s (BitVec.ofNat 64 (DirEnt.ofWords (h.v.dirWords s g tr tc).1.toNat 0).nnz)

/-- Steps 8 and 9. -/
def compactCommit (h : Shard) (s : State) (g slot tr tc : Nat) (x : Edit) : CompactRes :=
  compactClose h (h.streamCommit (h.commitTile s g tr tc x) tr tc) g slot tr tc

/-- A chunk whose entry reads `COMMITTED` and that no riser is executing waits to be rolled forward (R153, R299). -/
def Shard.committed (h : Shard) (s : State) (c : Nat) : Bool :=
  (h.jnlAt s c).phase == 3 && !s.chunkOpen h.r h.e c

/-- From step 5 on, with the claim held. A compaction that had to wait there is taken to the end of step 7 by the event that
releases it, and commits after it (log entry 70). -/
def compactClaimed (h : Shard) (s : State) (g slot tr tc : Nat) (x : Edit) (waited : Bool) : CompactRes :=
  let t := tr * h.v.tileCols + tc
  let c := h.chunkOf t
  let s := if h.committed s c then (h.finishChunk s c).getD s else s
  if (h.jnlAt s c).phase ≠ 0 then .wait s 1
  else
    let s := h.writeSpare s g t x
    if waited then .wait s 3 else compactCommit h s g slot tr tc x

/-- `COMPACT` (R149) from its place `phase`. -/
def runCompact (s : State) (g : Nat) (o : PatOps) (w : W512) (tile pcb : W64) (pcbOk : Bool) (phase : Nat) : CompactRes :=
  let tr := fld tile 49 25
  let tc := fld tile 24 0
  let slot := o.slot.toNat
  match (s.mould g).getEdit slot with
  | none => .done s allOnes
  | some x =>
    if o.discard then .done (s.updMould g fun m => m.setEdit slot none) allOnes
    else
      match viewOf w with
      | none => compactNone s g slot Reg.PAT_CNT_VIOL
      | some v =>
        match if v.layout = .sparse then s.ownerOf v else none with
        | none => compactNone s g slot Reg.PAT_CNT_VIOL
        | some (r, e) =>
          let h := { s.shard v r e with pcb := readPcb s g pcb.toNat }
          let t := tr * v.tileCols + tc
          if phase = 3 then compactCommit h s g slot tr tc x
          else if phase = 2 then compactClose h s g slot tr tc
          else if phase = 1 then compactClaimed h s g slot tr tc x true
          else if !pcbOk ∨ !v.inGrid tr tc then compactNone s g slot Reg.PAT_CNT_VIOL
          else if ¬(x.tid = v.tid ∧ x.tr = tr ∧ x.tc = tc ∧ x.base = v.dirWords s g tr tc)
              ∨ (v.readTile s g tr tc).malformed then compactNone s g slot Reg.PAT_CNT_VIOL
          else if s.claimed r v.tid t then compactNone s g slot Reg.PAT_CNT_DEFER
          else
            let tt := s.wordAt 0 (h.pcb.ttAddr t) 8
            let s := if bits tt 2 2 = 1 then putTT s h.pcb t (tt - 4) else s
            if bits tt 0 0 = 1 ∧ s.heatNum < bits tt 63 16 + 2 then compactNone s g slot Reg.PAT_CNT_DEFER
            else compactClaimed h (s.addClaim r v.tid t g) g slot tr tc x false

end Sys2Proof.Machine
end

