-- ==== Sys2Proof/Machine/Vector.lean ====
section
/-! DEFINITION. Element programs and the vector engine (R176, R179 to R192, R243 to R245), with the program rules that
riser programs share (R291). -/
namespace Sys2Proof.Machine

open Sys2Proof.Num

/-! ## Programs (R180 to R183, R186, R291) -/

/-- Header fields (R180). -/
def epP16 (h : W32) : Bool := h.getLsbD 31
def epSumOp (h : W32) : Nat := bits h.toNat 30 28
def epSumSrc (h : W32) : Nat := bits h.toNat 27 24
def epNin (h : W32) : Nat := bits h.toNat 23 21
def epNout (h : W32) : Nat := bits h.toNat 20 19
def epCount (h : W32) : Nat := bits h.toNat 6 0

/-- An element instruction (R181). -/
structure EpIns where
  op : Nat
  dst : Nat
  sa : Nat
  sb : Nat
  sc : Nat
  md : Nat
  deriving DecidableEq, Repr

def EpIns.ofWord (w : W32) : EpIns :=
  let f (hi lo : Nat) : Nat := bits w.toNat hi lo
  ⟨f 31 26, f 25 21, f 20 16, f 15 11, f 10 6, f 5 0⟩

/-- Sources that an opcode uses (R183); none for a reserved opcode. -/
def epArity (op : Nat) : Option Nat :=
  match op with
  | 0x04 | 0x0F => some 3
  | 0x01 | 0x02 | 0x03 | 0x05 | 0x06 | 0x09 | 0x0E => some 2
  | 0x13 | 0x14 | 0x15 | 0x16 | 0x17 | 0x18 | 0x19 | 0x1A | 0x1B => some 2
  | 0x00 | 0x07 | 0x08 | 0x0A | 0x0B | 0x0C | 0x0D | 0x10 | 0x11 | 0x12 => some 1
  | 0x1C => some 0
  | _ => none

/-- Opcodes permitted in paired mode (R184). -/
def epPaired (op : Nat) : Bool := decide (op ≤ 0x08) || op == 0x0E || op == 0x0F

/-- A source selector that may be read with `nin` inputs (R182). -/
def epSrcOk (nin s : Nat) : Bool := decide (s < 16 ∨ (16 ≤ s ∧ s < 16 + min nin 4) ∨ (20 ≤ s ∧ s < 30))

/-- The checks of R186 on one instruction; riser programs under R291. -/
def EpIns.ok (riser p16 : Bool) (nin nout : Nat) (i : EpIns) : Bool :=
  match epArity i.op with
  | none => false
  | some n =>
    let src (k s : Nat) : Bool := if k < n then epSrcOk nin s else s == 28
    src 0 i.sa && src 1 i.sb && src 2 i.sc
      && (decide (i.dst < 16) || (decide (i.dst < 16 + nout) && decide (i.dst < if riser then 19 else 18)
        && !(riser && decide (32 ≤ i.md))))
      && !(i.op == 0x0E && i.md % 8 == 7) && !(i.op == 0x10 && !decide (1 ≤ i.md % 16 ∧ i.md % 16 ≤ 9))
      && (!p16 || epPaired i.op)

/-- The checks of R186 and R291 on a header. -/
def epHeaderOk (riser : Bool) (h : W32) : Bool :=
  decide (bits h.toNat 18 7 = 0 ∧ 1 ≤ epCount h ∧ epCount h ≤ 64 ∧ epNin h ≤ 4)
    && (if riser then !epP16 h && epSumOp h == 0 && epNout h == 3 else decide (epNout h ≤ 2))

/-- A slot loaded with a header and its instructions, checked. -/
def epSlotOf (riser : Bool) (ws : List W32) : EpSlot :=
  match ws with
  | [] => EpSlot.reset
  | h :: code =>
    ⟨h, code, epHeaderOk riser h &&
      code.all fun w => (EpIns.ofWord w).ok riser (epP16 h) (epNin h) (epNout h)⟩

/-- Header and instructions at a data-memory address (R243); none for an address that is not allowed. -/
def epWords (dm : Mem) (a : Nat) : Option (List W32) :=
  let w (i : Nat) : W32 := BitVec.ofNat 32 (dm.word (a + 4 * i) 4)
  if a % 4 ≠ 0 ∨ 0x10000 < a + 4 then none
  else
    let n := epCount (w 0)
    if 0x10000 < a + 4 * (1 + n) then none else some ((List.range (1 + n)).map w)

/-- The slot that a load leaves, and whether its address was wrong: then the old contents stay and the slot is invalid. -/
def epLoaded (dm : Mem) (old : EpSlot) (a : Nat) : EpSlot × Bool :=
  match epWords dm a with
  | some ws => (epSlotOf false ws, false)
  | none => ({ old with valid := false }, true)

/-- `EPLOAD` when it executes (R243). -/
def runEpload (s : State) (g slot : Nat) (a : W64) : State :=
  s.updMould g fun m =>
    let r := epLoaded m.dmem (m.getEp slot) a.toNat
    (m.setEp slot r.1).count Reg.VEC_CNT_VIOL (b2n r.2)

/-! ## Execution (R182 to R184) -/

/-- The result of an operation on its three sources (R183); in paired mode an F operation rounds once to E8M7 (R184). -/
def epOp (p16 : Bool) (i : EpIns) (idx : Nat) (a b c : W32) : W32 :=
  let narrow (x : W32) : W32 := if p16 then Fp32.round true (ofF32 x) else x
  match i.op with
  | 0x00 => a
  | 0x01 => Fp32.add p16 a b
  | 0x02 => Fp32.sub p16 a b
  | 0x03 => Fp32.mul p16 a b
  | 0x04 => Fp32.fma p16 a b c
  | 0x05 => narrow (Fp32.fmin a b)
  | 0x06 => narrow (Fp32.fmax a b)
  | 0x07 => narrow (Fp32.abs a)
  | 0x08 => narrow (Fp32.neg a)
  | 0x09 => Fp32.div a b
  | 0x0A => Fp32.sqrt a
  | 0x0B => Fp32.rsqrt a
  | 0x0C => Fp32.exp2 a
  | 0x0D => Fp32.log2 a
  | 0x0E => if Fp32.cmp (i.md % 8) a b then 0x3F800000 else 0
  | 0x0F => if Fp32.nonzero c then a else b
  | 0x10 =>
    match Fmt.ofCode (i.md % 16) with
    | some f => Fp32.round false (decode f (convert f (if i.md / 16 % 2 = 1 then .rtz else .rne) 0 (ofF32 a)).1)
    | none => a
  | 0x11 => Fp32.ofInt a.toInt
  | 0x12 => BitVec.ofInt 32 (Fp32.toInt 32 a)
  | 0x13 => a + b
  | 0x14 => a - b
  | 0x15 => a * b
  | 0x16 => a &&& b
  | 0x17 => a ||| b
  | 0x18 => a ^^^ b
  | 0x19 => a <<< (b.toNat % 32)
  | 0x1A => a >>> (b.toNat % 32)
  | 0x1B => a.sshiftRight (b.toNat % 32)
  | _ => BitVec.ofNat 32 idx

/-- Registers and outputs of one element: e0 to e15; out0 to out2 with the `MOD[5]` of the last write. -/
structure EpState where
  e : List W32
  out : List (Option (W32 × Bool))

/-- A source's value (R182). -/
def epSource (e ins ks : List W32) (sel : Nat) : W32 :=
  if sel < 16 then e.getD sel 0
  else if sel < 20 then ins.getD (sel - 16) 0
  else if sel < 28 then ks.getD (sel - 20) 0
  else if sel = 29 then 0x3F800000
  else 0

/-- One element instruction. -/
def epStep (p16 : Bool) (ins ks : List W32) (idx : Nat) (st : EpState) (i : EpIns) : EpState :=
  let v (sel : Nat) : W32 := epSource st.e ins ks sel
  let r := epOp p16 i idx (v i.sa) (v i.sb) (v i.sc)
  if i.dst < 16 then { st with e := st.e.set i.dst r } else { st with out := st.out.set (i.dst - 16) (some (r, decide (32 ≤ i.md))) }

/-- A whole program on one element: every e register starts at +0. -/
def epRun (sl : EpSlot) (ins ks : List W32) (idx : Nat) : EpState :=
  (sl.code.map EpIns.ofWord).foldl (epStep (epP16 sl.hdr) ins ks idx) ⟨List.replicate 16 0, List.replicate 3 none⟩

/-! ## Summaries (R176) -/

/-- Extreme of a list under the order of R176, NaN if any is NaN. -/
def summaryExtreme (pick : W32 → W32 → W32) (vs : List W32) : W32 :=
  if vs.any fun v => (ofF32 v).isNan then nan32
  else match vs with
    | [] => 0
    | v :: t => t.foldl pick v

/-- The posted value of a `SUMOP` over the chosen register's values, element 0 first. -/
def summaryOf (op : Nat) (vs : List W32) : W64 :=
  let n := (vs.filter Fp32.nonzero).length
  match op with
  | 1 => (summaryExtreme Fp32.fmax vs).setWidth 64
  | 2 => (summaryExtreme Fp32.fmax (vs.map Fp32.abs)).setWidth 64
  | 3 => (summaryExtreme Fp32.fmin vs).setWidth 64
  | 4 => (RefSum.sumPlain vs false).setWidth 64
  | 5 => (RefSum.sumPlain vs true).setWidth 64
  | 6 => BitVec.ofNat 64 n
  | 7 => BitVec.ofNat 64 (b2n (n != 0))
  | _ => 0

/-! ## Operand maps (R245) -/

/-- A byte of the operand map. -/
structure MapByte where
  kind : Nat
  dreg : Nat
  gs : Nat
  at_ : Nat
  deriving DecidableEq, Repr

def mapByte (map : W64) (i : Nat) : MapByte :=
  let f (hi lo : Nat) : Nat := fld map (8 * i + hi) (8 * i + lo)
  ⟨f 7 6, f 5 0, f 4 3, f 2 0⟩

/-- An aligned group of a size that exists. -/
def MapByte.groupOk (b : MapByte) : Bool := decide (b.gs < 3) && b.at_ % 2 ^ b.gs == 0
def MapByte.inputOk (b : MapByte) : Bool := b.kind == 0 || (decide (b.kind < 3) && b.groupOk)
def MapByte.queued (b : MapByte) : Bool := b.kind == 2 && b.groupOk

/-- The bytes that a program reads: inputs and outputs. -/
def mapInputs (h : W32) (map : W64) : List MapByte := (List.range (epNin h)).map (mapByte map)
def mapOutputs (h : W32) (map : W64) : List MapByte := (List.range (epNout h)).map fun j => mapByte map (4 + j)
def mapOk (h : W32) (map : W64) : Bool :=
  (mapInputs h map).all MapByte.inputOk && (mapOutputs h map).all fun b => b.kind == 0

/-- The well-formed queue-input bytes of a header (R186): none where its `NIN` lies outside 0 to 4. -/
def queueBytes (h : W32) (map : W64) : List MapByte :=
  if epNin h ≤ 4 then (mapInputs h map).filter MapByte.queued else []

def popCount (bs : List MapByte) : Nat := totalBy (fun b => 2 ^ b.gs) bs

/-! ## The finished-tile queue (R188 to R191) -/

/-- The fall-back path is in use (R191): entries left when the enable was cleared are consumed first. -/
def Mould.fallback (m : Mould) : Bool := !bitOf (m.reg Reg.VEC_CFG) 0 && m.ftq.isEmpty

/-- A slot as the loads waiting in the vector queue that issued before `seq` will leave it (R243: loads run in queue order). -/
def Mould.slotAhead (m : Mould) (n seq : Nat) : EpSlot :=
  (m.queue 1).foldl (fun sl q => match q with
    | .work i (.epload k a) => if k = n ∧ i < seq then (epLoaded m.dmem sl a.toNat).1 else sl
    | _ => sl) (m.getEp n)

/-- Pops that the launches waiting in the vector queue have still to make. -/
def Mould.popsOut (m : Mould) : Nat :=
  totalBy (fun q => match q with
    | .work seq (.vrun o map _ _ qok got _) =>
      if qok then popCount ((queueBytes (m.slotAhead o.slot.toNat seq).hdr map).drop got.length) else 0
    | _ => 0) (m.queue 1)

/-- Entries that a product waiting in the matrix queue will push (R188). -/
def pushesOf (s : State) (g : Nat) (w : Work) : Nat :=
  match w with
  | .product kind o dw dout _ ra rb _ =>
    if o.disp ≠ 2 ∨ kind = .sprobe then 0
    else
      let p := prodOf s kind o dw dout ra rb
      (p.tiles (p.cls (s.mould g).rows) (match p.w with
        | some v => (firstTile kind v s g p.fix p.first).nnz
        | none => 0)).length
  | _ => 0

/-- Entries that the products waiting in the matrix queue will push, each with the rows that the `TBLOAD`s before it in the queue
will have staged. -/
def pushesAhead (s : State) (g : Nat) : Nat :=
  (((s.mould g).queue 0).foldl (fun (a : State × Nat) q => match q with
    | .work _ (.tbload o da x y) => (runTbload a.1 g o da x y, a.2)
    | .work _ w => (a.1, a.2 + pushesOf a.1 g w)
    | _ => a) (s, 0)).2

/-- The issue check of R189 for a launch of slot n: one that pops nothing cannot break it. -/
def launchCheck (s : State) (g n : Nat) (map : W64) : Bool :=
  let m := s.mould g
  let pops := popCount (queueBytes (m.slotAhead n (m.ser + 1)).hdr map)
  let en := bitOf (m.reg Reg.VEC_CFG) 0
  pops == 0 || decide (m.popsOut + pops ≤ m.ftq.length + if en then pushesAhead s g else 0)
    || (!en && decide (m.ftq.length ≤ m.popsOut))

/-- A product that may still push waits in the matrix queue. -/
def Mould.pushWaits (m : Mould) : Bool :=
  bitOf (m.reg Reg.VEC_CFG) 0 && (m.queue 0).any fun q => match q with
    | .work _ (.product kind o _ _ _ _ _ _) => o.disp == 2 && kind != .sprobe
    | _ => false

/-- Pop one group (R189): its tiles, and whether the head carried `FIRST`, the expected tile and the group's size. -/
def Mould.popGroup (m : Mould) (b : MapByte) : Option (Mould × List Nat × Bool) :=
  let n := 2 ^ b.gs
  if m.ftq.length < n then none
  else
    let good := match m.ftq with
      | e :: _ => e.first && e.tile == b.at_ && e.size == n
      | [] => false
    some ({ m with ftq := m.ftq.drop n }, (m.ftq.take n).map (·.tile), good)

/-- Pops from where `got` stands: none while an entry may still come. Once the fall-back path is in use no more are made: what is left
is read directly (R191). A group that no product will push is not there. -/
def Mould.popAll (m : Mould) : List MapByte → List (List Nat × Bool) → Mould × List (List Nat × Bool) × Bool
  | [], got => (m, got, true)
  | b :: t, got =>
    match m.popGroup b with
    | some (m, x) => m.popAll t (got ++ [x])
    | none =>
      if m.pushWaits then (m, got, false)
      else if m.fallback then (m, got, true)
      else m.popAll t (got ++ [([], false)])

/-- Tiles that a launch has read return to closed (R190). -/
def Mould.releaseTiles (m : Mould) (ts : List Nat) : Mould :=
  ts.foldl (fun m t => if (m.getAcc t).st = .queued then m.setAcc t { m.getAcc t with st := .closed } else m) m

/-! ## A launch (R179, R185, R186, R244) -/

/-- An input operand: a descriptor, one that is treated as void, or an accumulator group; `good` is false where the group
reads as zero (R189). -/
inductive VIn where
  | view (v : View)
  | void
  | acc (gs : Nat) (tiles : List Nat) (good : Bool)

/-- Rows and columns of an accumulator group as one operand (R108). -/
def groupRows (gs : Nat) : Nat := if gs = 0 then 64 else 128
def groupCols (gs : Nat) : Nat := if gs = 2 then 128 else 64

/-- An element as it enters a program (R185), and the violations counted (R86). -/
def VIn.read (x : VIn) (s : State) (g i0 : Nat) (outer : List Nat) : W32 × Nat :=
  match x with
  | .view v =>
    if v.fmt = .int32 ∨ v.fmt = .uint16 then
      let c := v.readCode s g i0 outer
      (BitVec.ofNat 32 c.1, c.2)
    else
      let c := v.read s g i0 outer
      (BitVec.ofNat 32 (convert .e8m23 .rne 0 c.1).1, c.2)
  | .void => (0, 0)
  | .acc gs tiles good =>
    let c := outer.getD 0 0
    if groupRows gs ≤ i0 ∨ groupCols gs ≤ c ∨ (outer.drop 1).any (· != 0) then (0, 1)
    else if !good then (0, 0)
    else match tiles[i0 / 64 + 2 * (c / 64)]? with
      | some t => (SMap.get 0 ((s.mould g).getAcc t).vals (64 * (i0 % 64) + c % 64), 0)
      | none => (0, 0)

/-- An operand descriptor of a launch: usable, or void under R179 and R454. -/
def launchView (s : State) (g : Nat) (d : W512) : Option View :=
  match viewOf d with
  | some v => if v.layout != .sparse && v.nearMould s g then some v else none
  | none => none

/-- Coordinates of linear index n in a shape, dimension 0 first. -/
def unravel (ext : List Nat) (n : Nat) : List Nat :=
  (ext.foldl (fun (a : List Nat × Nat) e => (a.1 ++ [a.2 % e], a.2 / e)) ([], n)).1

/-- Value and raw code of a program's output (R24, R185): an INT32 value written to an INT32 output is raw data. -/
def outValue (f : Fmt) (r : Option (W32 × Bool)) : Val × Option Nat :=
  match r with
  | none => (.zero, none)
  | some (b, true) => (Val.ofInt b.toInt, if f = .int32 then some b.toNat else none)
  | some (b, false) => (ofF32 b, none)

/-- Write one run of an output: raw codes as they are, the rest converted. -/
def View.writeOut (v : View) (s : State) (g : Nat) (outer : List Nat) (xs : List (Nat × Val × Option Nat)) (mode : RMode) :
    State × WStat :=
  let conv := xs.filter fun x => x.2.2.isNone
  let r := v.writeRun s g outer (conv.map fun x => (x.1, x.2.1)) mode (s.rctx v.tid)
  let raw := (xs.filterMap fun x => x.2.2.map fun c => (x.1, c)).filter fun x =>
    v.inShape x.1 outer && !v.tlogHit s g x.1 outer
  if raw.isEmpty then (r.1, r.2.add { viol := (xs.length - conv.length) - raw.length })
  else (v.putCodes r.1 g outer raw [] (raw.map fun x => (x.1, x.2 == 0)),
    r.2.add { viol := (xs.length - conv.length) - raw.length })

/-- Outcome of a launch at the head of its queue: it waits, with its pops so far, or it has retired with its summary. -/
inductive VecRes where
  | wait (s : State) (got : List (List Nat × Bool))
  | done (s : State) (v : W64)

/-- The launch with its inputs resolved: read every element, run the program, write the outputs. -/
def launchRun (s : State) (g : Nat) (sl : EpSlot) (o : VrunOps) (ins : List VIn) (shape0 : List Nat) (outs : List W512)
    (ks : List W32) : State × W64 :=
  let ext := match outs with
    | d :: _ => imgExts d
    | [] => if ins.isEmpty then [1] else shape0
  let res := (List.range (product ext)).map fun n =>
    let c := unravel ext n
    let xs := ins.map fun x => x.read s g (c.getD 0 0) (c.drop 1)
    (epRun sl (xs.map (·.1)) ks n, totalBy (·.2) xs)
  let viol := totalBy (·.2) res
  let e0 := ext.getD 0 1
  let mode := RMode.ofCode o.rm.toNat
  let w := outs.zipIdx.foldl (fun (a : State × WStat) d =>
    match launchView s g d.1 with
    | some v =>
      if v.alias_ ∨ v.fmt = .e8m0 then a
      else (List.range (product (ext.drop 1))).foldl (fun (a : State × WStat) r =>
        let xs := (List.range e0).map fun i =>
          let v := outValue v.fmt ((res.getD (r * e0 + i) (⟨[], []⟩, 0)).1.out.getD d.2 none)
          (i, v.1, v.2)
        let y := v.writeOut a.1 g (unravel (ext.drop 1) r) xs mode
        (y.1, a.2.add y.2)) a
    | none => a) (s, {})
  let bad := writeFaults s (outs.map fun d => (viewOf d, match launchView s g d with
    | some v => v.fmt != .e8m0
    | none => false))
  ((w.1.mcount g Reg.VEC_CNT_VIOL (viol + bad + w.2.viol)).mcount g Reg.VEC_CNT_CLAMP w.2.clamps,
   summaryOf (epSumOp sl.hdr) (res.map fun r => r.1.e.getD (epSumSrc sl.hdr) 0))

/-- `VRUN` at the head of the vector queue, from its pops so far. -/
def runVrun (s : State) (g : Nat) (o : VrunOps) (map : W64) (imgs : List W512) (ks : List W32) (qok : Bool)
    (got : List (List Nat × Bool)) : VecRes :=
  let m := s.mould g
  let sl := m.getEp o.slot.toNat
  let pre := b2n (o.rm == 3) + b2n (fld map 63 48 != 0)
  let qb := if qok then queueBytes sl.hdr map else []
  let (m1, got, ready) := m.popAll (qb.drop got.length) got
  if !ready then .wait (s.setMould g m1) got
  else
    let popped := got.flatMap (·.1)
    if !sl.valid ∨ !mapOk sl.hdr map then
      .done ((s.setMould g (m1.releaseTiles popped)).mcount g Reg.VEC_CNT_VIOL (pre + 1)) 0
    else
      let bytes := mapInputs sl.hdr map
      let groupOf (b : MapByte) : List Nat := (List.range (2 ^ b.gs)).map (b.at_ + ·)
      let place (i : Nat) : Nat := ((bytes.take i).filter MapByte.queued).length
      let isDirect (b : MapByte × Nat) : Bool := b.1.kind == 1 || (b.1.kind == 2 && qok && decide (got.length ≤ place b.2))
      let reads := (bytes.zipIdx.filter isDirect).flatMap fun b => groupOf b.1
      if reads.any fun t => (m1.getAcc t).st == .queued && !popped.contains t then .wait (s.setMould g m1) got
      else
        let s := s.setMould g (reads.foldl (fun m t => m.closeTile s.heats.seed t) m1)
        let ins := (bytes.zipIdx).map fun b =>
          if b.1.kind = 0 then
            match launchView s g (imgs.getD b.2 voidImage) with
            | some v => VIn.view v
            | none => VIn.void
          else if isDirect b then VIn.acc b.1.gs (groupOf b.1) true
          else if !qok then VIn.acc b.1.gs [] false
          else match got[place b.2]? with
            | some x => VIn.acc b.1.gs x.1 x.2
            | none => VIn.acc b.1.gs [] false
        let viol := pre + totalBy (fun x => match x with
            | VIn.void => 1
            | _ => 0) ins
          + (if qok then (got.filter fun x => !x.2).length else b2n (bytes.any fun b => b.kind == 2))
        let shape0 := match bytes with
          | b :: _ => if b.kind = 0 then imgExts (imgs.getD 0 voidImage) else [groupRows b.gs, groupCols b.gs]
          | [] => [1]
        let outs := (List.range (epNout sl.hdr)).map fun j => imgs.getD (4 + j) voidImage
        let r := launchRun s g sl o ins shape0 outs ks
        .done ((r.1.updMould g fun m => m.releaseTiles popped).mcount g Reg.VEC_CNT_VIOL viol) r.2

end Sys2Proof.Machine
end

