-- ==== Sys2Proof/Machine/Riser.lean ====
section
/-! DEFINITION. The risers (R257, R258, R282 to R304): where a command is delivered, updates under the chunk journal,
program loads, fetches and audits, resumption, and the owner's answer to a mismatch. -/
namespace Sys2Proof.Machine

open Sys2Proof.Num

def State.rcount (s : State) (r off n : Nat) : State := s.count (riserOff r off) n
def State.updRiser (s : State) (r : Nat) (f : Riser → Riser) : State := s.setRiser r (f (s.riser r))

/-- `DETAIL` of a riser's fault: `TID` and chunk (R384). -/
def riserDetail (tid c : Nat) : Nat := tid + c * 2 ^ 64

/-- `DETAIL` of a persistent mismatch: it names the owner too (R301), as the device address in bits [47:32] (log entry 71). -/
def ownerDetail (owner tid c : Nat) : Nat := riserDetail tid c + owner * 2 ^ 32

/-- A fault event of the digest mechanism (R301, R302, R382). -/
def State.digestFault (s : State) (r : Nat) (cls : FClass) (action detail : Nat) : State :=
  s.raiseFault { mech := 0x0A, unit := unitRiser r, cls := cls, action := action, detail := detail }

/-! ## Delivery (R257) -/

/-- The riser that a command goes to; none: not delivered. -/
def riserTarget (s : State) (w : Work) : Option Nat :=
  let byBase (d : W512) : Option Nat := match viewOf d with
    | some v => if v.dev = s.devAddr then s.riserOf v.base else none
    | none => none
  match w with
  | .rupd _ _ dw _ _ _ _ => byBase dw
  | .raudit dw _ _ => byBase dw
  | .rfetch dd _ _ _ => byBase dd
  | .rprog _ _ r _ => some r
  | _ => none

/-! ## Updates (R292 to R296) -/

/-- The update log lies where R296 requires. -/
def State.logOk (s : State) (r : Nat) : Bool :=
  let a := (s.reg (riserOff r Reg.RISER_LOG_BASE)).toNat
  let onStack := match s.regionAt a with
    | some n =>
      let pl := s.reg (rgnOff Reg.MEM_RGN_PLACE n)
      decide ((fld pl 63 62 = 1 ∨ fld pl 63 62 = 2) ∧ fld pl 58 56 = r)
    | none => false
  decide (a % 512 = 0) && onStack && s.inHbmRegion a 131200

def State.logAt (s : State) (r : Nat) : Nat := (s.reg (riserOff r Reg.RISER_LOG_BASE)).toNat

/-- `master_step` of R292: code and clamp. -/
def masterStep (w : Nat) (u : W32) (lexp : Int) (n : Nat) (ctx : Ctx) : Nat × Clamp :=
  convert .e6m9 .sr (elemWord ctx n) (fuseVal 1 (decode .e6m9 w) ((ofF32 u).scale lexp))

/-- A moment from its output (R292): RNE, or SR with the word of its identifier. -/
def momentStep (f : Fmt) (o : W32) (sr : Bool) (n : Nat) (ctx : Ctx) : Nat × Clamp :=
  convert f (if sr then .sr else .rne) (if sr then elemWord ctx n else 0) (ofF32 o)

/-- Gradients of one tile in packed order, and how many bad entries the gradient tile holds (R86, R96); none: the chunk is not
updated (R293). -/
abbrev Grads := STile → Option (List W32 × Nat)

/-- Gradients from a sparse tensor in local HBM with the shard's extents. -/
def gradsOf (s : State) (h : Shard) (dg : W512) : Grads := fun x =>
  match viewOf dg with
  | some v =>
    if v.layout = .sparse ∧ v.dev = s.devAddr ∧ v.window = some .hbm ∧ v.ext = h.v.ext then
      let t := v.readTile s 0 x.tile.tr x.tile.tc
      if t.malformed ∨ t.entries.length ≠ x.nnz then none
      else some (t.entries.zipIdx.map fun e =>
        BitVec.ofNat 32 (convert .e8m23 .rne 0 (if e.1.bad then .zero else t.value v e.1.code e.2)).1, t.badCount)
    else none
  | none => none

/-- First packed index of tile t in the whole shard. -/
def Shard.packedBase (h : Shard) (s : State) (t : Nat) : Nat :=
  totalBy (fun i => (h.tileAt s i).nnz) (List.range t)

/-- Gradients from the reduction held under a `TID` (R293, R333). -/
def gradsHeld (s : State) (h : Shard) (tid : Nat) : Grads := fun x =>
  match s.runner.held.find? (fun r => r.tid == tid && r.heat == s.heatNum) with
  | some r =>
    let b := h.packedBase s x.t
    if r.base ≤ b ∧ b + x.nnz ≤ r.base + r.vals.length then some ((r.vals.drop (b - r.base)).take x.nnz, 0) else none
  | none => none

/-- What one non-zero becomes: master, moments, clamps. -/
structure NewWeight where
  w : Nat
  m1 : Nat
  m2 : Nat
  clamps : Nat

/-- Step 3 on one tile. -/
def Shard.passTile (h : Shard) (s : State) (sl : EpSlot) (ks : List W32) (lexp : Int) (bank : Nat) (x : STile)
    (gr : List W32) : List NewWeight :=
  let n := x.nnz
  let ms := readCol s x.st n
  let m1 := readCol s (m1Col x.st n bank) n
  let m2 := readCol s (m2Col x.st n bank) n
  let sr := bitOf h.key 60
  let f32 (f : Fmt) (c : Nat) : W32 := BitVec.ofNat 32 (convert .e8m23 .rne 0 (decode f c)).1
  x.tile.entries.zipIdx.map fun e =>
    let idx := h.v.densePos x.tile.tr x.tile.tc e.1.pos
    let st := epRun sl [gr.getD e.2 0, f32 .e6m9 (ms.getD e.2 0), f32 .e8m7 (m1.getD e.2 0), f32 .e7m9u (m2.getD e.2 0)]
      ks idx
    let out (k : Nat) : W32 := match st.out.getD k none with
      | some x => x.1
      | none => 0
    let w := masterStep (ms.getD e.2 0) (out 0) lexp idx (s.rctx (fld h.mtid 23 0))
    let a := momentStep .e8m7 (out 1) sr idx (s.rctx (fld h.mtid 47 24))
    let b := momentStep .e7m9u (out 2) sr idx (s.rctx (fld h.key 47 24))
    ⟨w.1, a.1, b.1, b2n w.2.any + b2n a.2.any + b2n b.2.any⟩

def Shard.liveTiles (h : Shard) (s : State) (c : Nat) : List STile :=
  ((h.chunkTiles c).map fun t => h.tileAt s t).filter fun x => !x.tile.malformed

/-- The log header (R296). -/
def Shard.writeLogHeader (h : Shard) (s : State) (dw : W512) (c : Nat) : State :=
  s.store 0 (s.logAt h.r) (leBytes 64 dw.toNat ++ leBytes 8 s.heatNum ++ leBytes 8 c ++ leBytes 8 h.e
    ++ leBytes 8 (h.jnlAddr c) ++ List.replicate 32 0)

/-- Steps 2 to 4: header, `MOMENTS`, new moments to the shadow bank, new masters to the log, `WEIGHTS`. -/
def Shard.pass (h : Shard) (s : State) (dw : W512) (c : Nat) (sl : EpSlot) (ks : List W32) (lexp : Int)
    (gs : List (STile × List W32)) : State :=
  let s := h.writeLogHeader s dw c
  let j := h.jnlAt s c
  let s := writeJnl s (h.jnlAddr c) { j with phase := 1, uheat := s.heatNum }
  let r := gs.foldl (fun (a : State × Nat × Nat) x =>
    let ws := h.passTile a.1 sl ks lexp j.bank x.1 x.2
    let n := x.1.nnz
    let s := writeCol a.1 (m1Col x.1.st n (1 - j.bank)) (ws.map (·.m1))
    let s := writeCol s (m2Col x.1.st n (1 - j.bank)) (ws.map (·.m2))
    let s := writeCol s (s.logAt h.r + 128 + 2 * a.2.1) (ws.map (·.w))
    (s, a.2.1 + n, a.2.2 + totalBy (·.clamps) ws)) (s, 0, 0)
  writeJnl (r.1.rcount h.r Reg.RISER_CNT_CLAMP r.2.2) (h.jnlAddr c) { j with phase := 2, uheat := s.heatNum }

/-- Steps 5 and 6: masters from the log, then the commit at heat `heat`. -/
def Shard.commit (h : Shard) (s : State) (c heat : Nat) : State :=
  let s := ((h.liveTiles s c).foldl (fun (a : State × Nat) x =>
    (writeCol a.1 x.st (readCol a.1 (a.1.logAt h.r + 128 + 2 * a.2) x.nnz), a.2 + x.nnz)) (s, 0)).1
  let j := h.jnlAt s c
  let bank := 1 - j.bank
  (writeJnl s (h.jnlAddr c) { j with cheat := heat, bank := bank, phase := 3, sdig := h.sdig s c bank }).rcount h.r
    Reg.RISER_CNT_COMMIT 1

/-- What one chunk of a command gives: it waits, or it is done with a value. -/
inductive ChunkRes where
  | wait (s : State)
  | done (s : State) (v : Nat)

/-- Any claim on the tiles of a chunk (R294). -/
def Shard.claimed (h : Shard) (s : State) (c : Nat) : Bool :=
  (h.chunkTiles c).any fun t => s.claimed h.r h.v.tid t

/-- Steps 7 to 9, or the wait for the ring with the chunk open. -/
def Shard.finishOpen (h : Shard) (s : State) (c : Nat) : ChunkRes :=
  match h.finishChunk s c with
  | some s => .done (s.updRiser h.r fun r => { r with opened := none }) 1
  | none => .wait (s.updRiser h.r fun r => { r with opened := some ⟨h.e, c, 3⟩ })

/-- One chunk of a `RUPD` (R294, R295). -/
def Shard.updateChunk (h : Shard) (s : State) (dw : W512) (c : Nat) (sl : EpSlot) (ks : List W32) (lexp : Int)
    (grads : Grads) : ChunkRes :=
  let j := h.jnlAt s c
  if s.chunkOpen h.r h.e c then h.finishOpen s c
  else if j.cheat = s.heatNum then .done (s.rcount h.r Reg.RISER_CNT_REPEAT 1) 1
  else if s.heatNum < j.cheat then .done (s.rcount h.r Reg.RISER_CNT_VIOL 1) 0
  else if j.bad then .done (s.rcount h.r Reg.RISER_CNT_SKIP 1) 0
  else if h.claimed s c then .wait s
  else
    let tiles := h.liveTiles s c
    let s := s.rcount h.r Reg.RISER_CNT_VIOL
      (((h.chunkTiles c).length - tiles.length) + totalBy (·.tile.badCount) tiles)
    let gs := tiles.filterMap fun x => (grads x).map fun l => (x, l)
    if gs.length < tiles.length then .done (s.rcount h.r Reg.RISER_CNT_VIOL 1) 0
    else
      let s := s.rcount h.r Reg.RISER_CNT_VIOL (totalBy (·.2.2) gs)
      h.finishOpen (h.commit (h.pass s dw c sl ks lexp (gs.map fun x => (x.1, x.2.1))) c s.heatNum) c

/-! ## Commands (R258, R311) -/

/-- Outcome of a command at the head of its riser's queue. -/
inductive RiserRes where
  | wait (s : State) (cmd : RiserCmd)
  | done (s : State) (v : W64)

/-- A command that is refused: counted once, posts 0. -/
def riserViol (s : State) (r : Nat) : RiserRes := .done (s.rcount r Reg.RISER_CNT_VIOL 1) 0

/-- Run chunks from `cmd.next` below `stop`, adding up their values. -/
def runChunks (f : State → Nat → ChunkRes) (stop : Nat) : Nat → State → RiserCmd → RiserRes
  | 0, s, cmd => .done s (BitVec.ofNat 64 cmd.val)
  | fuel + 1, s, cmd =>
    if stop ≤ cmd.next then .done s (BitVec.ofNat 64 cmd.val)
    else
      match f s cmd.next with
      | .wait s => .wait s cmd
      | .done s v => runChunks f stop fuel s { cmd with next := cmd.next + 1, val := cmd.val + v }

/-- A chunk count and range in ra (R258). -/
def rupdCount (a : W64) : Nat := fld a 63 40
def rupdFirst (a : W64) : Nat := fld a 39 8

/-- The reduction that a `RUPD` waits for has completed on this device (R293): it is no longer open, or only answers its peers. -/
def collDone (s : State) (after : Option (Nat × Nat)) : Bool :=
  match after with
  | some (grp, cseq) => !(s.runner.colls.any fun c => c.grp == grp && c.cseq == cseq && c.phase != .done)
  | none => true

/-- `RUPD` (R258, R293 to R296). -/
def runRupd (s : State) (r : Nat) (cmd : RiserCmd) (o : RupdOps) (dg dw : W512) (ks : List W32) (a : W64)
    (after : Option (Nat × Nat)) : RiserRes :=
  let sl := SMap.get EpSlot.reset (s.riser r).slots o.pslot.toNat
  match viewOf dw with
  | none => riserViol s r
  | some v =>
    match if v.layout = .sparse then s.shardEntry r 0 v.tid else none with
    | none => riserViol s r
    | some e =>
      let h := s.shard v r e
      if !h.pcb.ok s v ∨ !h.placed s ∨ !s.logOk r ∨ !sl.valid then riserViol s r
      else if o.gsrc && !collDone s after then .wait s cmd
      else
        let stop := rupdFirst a + rupdCount a
        let s := if cmd.next = 0 ∧ cmd.off = 0 then
            s.rcount r Reg.RISER_CNT_VIOL (b2n (rupdCount a == 0 || decide (h.ch < stop)))
          else s
        let lexp := twos 8 (fld a 7 0)
        let grads : Grads := if o.gsrc then gradsHeld s h (imgTid dg) else gradsOf s h dg
        runChunks (fun s c => h.updateChunk s dw c sl ks lexp grads) (min stop h.ch) (rupdCount a + 1) s
          { cmd with next := max cmd.next (rupdFirst a), off := 1 }

/-- `RPROG` (R243, R258, R291): the program words captured at issue. -/
def runRprog (s : State) (r pslot : Nat) (words : List W32) (addrOk : Bool) : RiserRes :=
  let s := s.updRiser r fun x =>
    let old := SMap.get EpSlot.reset x.slots pslot
    { x with slots := SMap.set EpSlot.reset x.slots pslot (if addrOk then epSlotOf true words else { old with valid := false }) }
  .done (s.rcount r Reg.RISER_CNT_VIOL (b2n (!addrOk))) 0

/-! ## Fetches (R301) -/

/-- A tile received: its directory entry and record bytes. -/
structure Received where
  t : Nat
  tile : Tile
  rec_ : List Byte

/-- The tiles of a chunk as the owner's descriptor gives them. -/
def Shard.receive (h : Shard) (s : State) (src : View) (c : Nat) : List Received :=
  (h.chunkTiles c).map fun t =>
    let x := src.readTile s 0 (t / h.v.tileCols) (t % h.v.tileCols)
    ⟨t, x, if x.malformed then [] else src.bytes s 0 (src.recAddr x.dir.off) (64 * x.dir.len)⟩

/-- `WDIG` of received tiles. -/
def Shard.wdigOf (h : Shard) (s : State) (ts : List Received) : BitVec 128 :=
  digestBits (ts.flatMap fun x => tileFields h.v x.tile) h.v.lenWord s.heats.key

/-- Place the tiles as R217 places them, from record offset `off`: the state, the next offset, the violations. -/
def Shard.place (h : Shard) (s : State) (off : Nat) (ts : List Received) : State × Nat × Nat :=
  ts.foldl (fun (a : State × Nat × Nat) x =>
    let ent := h.v.dirAddr x.tile.tr x.tile.tc
    let at_ := h.v.recAddr a.2.1
    if x.tile.malformed ∨ s.rgnLimit h.v.region < at_ + x.rec_.length then
      (a.1.store 0 ent x.tile.dir.spoiled.bytes, a.2.1, a.2.2 + 1)
    else
      let capx := !(overCap (x.tile.entries.map (·.pos)) h.v.gcap).isEmpty
      let s := a.1.store 0 at_ x.rec_
      (s.store 0 ent ({ x.tile.dir with capx := capx, off := a.2.1 } : DirEnt).bytes, a.2.1 + x.tile.dir.len, a.2.2))
    (s, off, 0)

/-- Every directory entry of a chunk is written with `TDIR.ENC` = 0b11, so that it reads as malformed (R301). -/
def Shard.spoil (h : Shard) (s : State) (c : Nat) : State :=
  (h.chunkTiles c).foldl (fun s t =>
    let tr := t / h.v.tileCols
    let tc := t % h.v.tileCols
    let w := h.v.dirWords s 0 tr tc
    s.store 0 (h.v.dirAddr tr tc) (DirEnt.ofWords w.1.toNat w.2.toNat).spoiled.bytes) s

/-- The owner's recheck of a chunk that mismatched persistently (R301 steps 2 to 3c). -/
def Shard.recheck (h : Shard) (s : State) (c : Nat) : State :=
  let j := h.jnlAt s c
  if h.wdig s c = j.wdig then s.digestFault h.r .degraded 0 (riserDetail h.v.tid c)
  else if h.sdig s c j.bank = j.sdig then
    let s := h.publish s c
    (writeJnl s (h.jnlAddr c) { j with wdig := h.wdig s c }).digestFault h.r .masked 1 (riserDetail h.v.tid c)
  else (writeJnl s (h.jnlAddr c) { j with bad := true }).digestFault h.r .degraded 0 (riserDetail h.v.tid c)

/-- What the owner's side of one chunk gives: it must wait; or the outcome (0 match, 1 match on the refetch, 2 neither) with
the owner's `CHEAT` and `WDIG`. -/
inductive OwnerAns where
  | wait
  | ans (s : State) (code cheat : Nat) (wdig : BitVec 128)

/-- A remote owner's answer belongs to the environment: whether each fetch matches, and its heat, are free (log entry 20). With
`HCHK` = 0 nothing is compared (R378). -/
def remoteAnswer (s : State) (src : View) (da : W512) (c : Nat) (dig : BitVec 128) : OwnerAns :=
  let dest : W16 := BitVec.ofNat 16 src.dev
  let s := s.send (.fetchReq dest src.tid c da)
  let a := if s.hchk then s.freshBit else (true, s)
  let s1 := if a.1 then a.2 else a.2.send (.fetchReq dest src.tid c da)
  let b := if a.1 then (true, s1) else s1.freshBit
  let w := b.2.freshWord
  .ans w.2 (if a.1 then 0 else if b.1 then 1 else 2) (fld w.1 47 0) dig

/-- An owner on this device. With `HCHK` = 0 no digests are compared (R378). -/
def localAnswer (s : State) (src : View) (o : Shard) (c : Nat) (dig : BitVec 128) : OwnerAns :=
  let j := o.jnlAt s c
  if j.phase = 3 ∨ o.claimed s c then .wait
  else if j.bad ∨ src.tid ≠ o.v.tid ∨ (s.hchk ∧ dig ≠ j.wdig) then .ans s 2 j.cheat j.wdig
  else .ans s 0 j.cheat j.wdig

/-- One chunk of an `RFETCH` from record offset `off`: the next offset comes with the code. -/
def Shard.fetchChunk (h : Shard) (s : State) (src : View) (da : W512) (owner : Option Shard) (c off : Nat) :
    Option (State × Nat × Nat) :=
  let ts := h.receive s src c
  let dig := h.wdigOf s ts
  match match owner with
    | some o => localAnswer s src o c dig
    | none => remoteAnswer s src da c dig with
  | .wait => none
  | .ans s code cheat w =>
    let p := h.place s off ts
    if code = 2 then
      let s := ((h.spoil p.1 c).rcount h.r Reg.RISER_CNT_VIOL p.2.2).digestFault h.r .degraded 0
        (ownerDetail src.dev h.v.tid c)
      some (match owner with
        | some o => o.recheck s c
        | none => s.send (.mismatch (BitVec.ofNat 16 src.dev) src.tid c da), p.2.1, 2)
    else
      let j := h.jnlAt p.1 c
      let s := writeJnl p.1 (h.jnlAddr c) { j with cheat := cheat, wdig := w }
      some ((s.rcount h.r Reg.RISER_CNT_REFETCH code).rcount h.r Reg.RISER_CNT_VIOL p.2.2, p.2.1, code)

/-- Replica entry, PCB and journal lie on the riser's stack. -/
def Shard.replicaPlaced (h : Shard) (s : State) : Bool :=
  s.onShard h.r h.v.base (16 * h.v.ntiles) && s.onShard h.r (fld (s.reg (shdOff h.r h.e 2)) 47 0) 64
    && s.onShard h.r h.v.aux 64 && decide (h.jnl % 64 = 0) && s.onShard h.r h.jnl (64 * h.ch)

/-- Chunks of an `RFETCH` from `cmd.next`. -/
def fetchChunks (h : Shard) (src : View) (da : W512) (owner : Option Shard) : Nat → State → RiserCmd → RiserRes
  | 0, s, cmd => .done s (BitVec.ofNat 64 cmd.val)
  | fuel + 1, s, cmd =>
    if h.ch ≤ cmd.next then .done s (BitVec.ofNat 64 cmd.val)
    else
      match h.fetchChunk s src da owner cmd.next cmd.off with
      | none => .wait s cmd
      | some (s, off, code) =>
        fetchChunks h src da owner fuel s { cmd with next := cmd.next + 1, val := max cmd.val code, off := off }

/-- `RFETCH` (R301). -/
def runRfetch (s : State) (r : Nat) (cmd : RiserCmd) (dd da : W512) : RiserRes :=
  match viewOf dd, viewOf da with
  | some v, some src =>
    match if v.layout = .sparse then s.shardEntry r 1 v.tid else none with
    | none => riserViol s r
    | some e =>
      let h := s.shard v r e
      if !h.replicaPlaced s ∨ src.layout ≠ .sparse ∨ ¬(src.fmt = v.fmt ∧ src.blk = v.blk ∧ src.mx = v.mx ∧ src.ext = v.ext) then
        riserViol s r
      else if src.dev ≠ s.devAddr then fetchChunks h src da none (h.ch + 1) s cmd
      else
        match s.ownerOf src with
        | some (ro, eo) => fetchChunks h src da (some (s.shard src ro eo)) (h.ch + 1) s cmd
        | none => riserViol s r
  | _, _ => riserViol s r

/-! ## Audits (R302) -/

/-- One chunk of an owner's audit. -/
def Shard.auditOwner (h : Shard) (s : State) (c : Nat) : State × Nat :=
  let j := h.jnlAt s c
  if h.wdig s c = j.wdig ∧ h.sdig s c j.bank = j.sdig then (s, 0)
  else if h.sdig s c j.bank = j.sdig then
    let s := h.publish s c
    ((writeJnl s (h.jnlAddr c) { j with wdig := h.wdig s c }).digestFault h.r .masked 1 (riserDetail h.v.tid c), 1)
  else ((writeJnl s (h.jnlAddr c) { j with bad := true }).digestFault h.r .degraded 0 (riserDetail h.v.tid c), 1)

/-- One chunk of a replica's audit. -/
def Shard.auditReplica (h : Shard) (s : State) (c : Nat) : State × Nat :=
  if h.wdig s c = (h.jnlAt s c).wdig then (s, 0)
  else ((h.spoil s c).digestFault h.r .degraded 0 (riserDetail h.v.tid c), 1)

/-- Every chunk audited; the shard's entry for the heat record. -/
def Shard.audit (h : Shard) (s : State) (f : State → Nat → State × Nat) : RiserRes :=
  let cs := List.range h.ch
  let a := cs.foldl (fun (a : State × Nat) c => let x := f a.1 c; (x.1, max a.2 x.2)) (s, 0)
  let js := cs.map fun c => h.jnlAt a.1 c
  let top := js.foldl (fun m j => max m j.cheat) 0
  let dig := shardDigest a.1 (js.map (·.wdig))
  .done (a.1.updRiser h.r fun x => { x with audits := x.audits ++ [(h.v.tid, top, dig)] }) (BitVec.ofNat 64 a.2)

/-- `RAUDIT` (R302): of an owner entry, or of a replica entry. -/
def runRaudit (s : State) (r : Nat) (dw : W512) : RiserRes :=
  match viewOf dw with
  | none => riserViol s r
  | some v =>
    if v.layout ≠ .sparse then riserViol s r
    else
      match s.shardEntry r 0 v.tid, s.shardEntry r 1 v.tid with
      | some e, _ =>
        let h := s.shard v r e
        if !h.pcb.ok s v ∨ !h.placed s then riserViol s r
        else h.audit s h.auditOwner
      | none, some e =>
        let h := s.shard v r e
        if !h.replicaPlaced s then riserViol s r else h.audit s h.auditReplica
      | none, none => riserViol s r

/-! ## Resumption (R297) -/

/-- Steps 7 to 9 on resumption; with no room in the ring the riser has the chunk open and waits. -/
def Shard.resumeFrom7 (h : Shard) (s : State) (c : Nat) : State × Bool :=
  match h.finishChunk s c with
  | some s => (s, true)
  | none => (s.updRiser h.r fun r => { r with opened := some ⟨h.e, c, 3⟩ }, false)

/-- The action for the chunk that the log names (R297), and whether it completed. -/
def resumeChunk (s : State) (r : Nat) : State × Bool :=
  if !s.logOk r then (s, true)
  else
    let a := s.logAt r
    let dw : W512 := BitVec.ofNat 512 (s.wordAt 0 a 64)
    let heat := s.wordAt 0 (a + 64) 8 % 2 ^ 48
    let c := s.wordAt 0 (a + 72) 8
    let e := s.wordAt 0 (a + 80) 8
    match viewOf dw with
    | none => (s, true)
    | some v =>
      let h := s.shard v r e
      if v.layout ≠ .sparse ∨ 64 ≤ e ∨ !bitOf h.key 63 ∨ fld h.key 23 0 ≠ v.tid
          ∨ s.wordAt 0 (a + 88) 8 % 2 ^ 48 ≠ h.jnlAddr c then (s, true)
      else
        let j := h.jnlAt s c
        match j.phase with
        | 1 => ((writeJnl s (h.jnlAddr c) { j with phase := 0, lphase := 1 }).rcount r Reg.RISER_CNT_ABANDON 1, true)
        | 2 => h.resumeFrom7 (h.commit s c heat) c
        | 3 => h.resumeFrom7 s c
        | _ => (s, true)

/-- The riser resumes before it takes a new command; then no chunk is open. -/
def State.riserResume (s : State) (r : Nat) : State :=
  let x := resumeChunk s r
  if x.2 then x.1.updRiser r fun q => { q with opened := none, recover := false, stopped := false } else x.1

/-- Commands of riser r end where `f` says so; where one of them had a chunk open, the riser resumes before it goes on (R297, R298). -/
def State.endCommands (s : State) (r : Nat) (f : RiserCmd → Bool) : State :=
  s.updRiser r fun x =>
    let cut := match x.queue with
      | c :: _ => f c
      | [] => false
    { x with queue := x.queue.filter fun c => !f c, recover := x.recover || (cut && x.opened.isSome) }

/-- Run the command at the head. -/
def runRiserCmd (s : State) (r : Nat) (cmd : RiserCmd) : RiserRes :=
  match cmd.work with
  | .rupd o dg dw ks a after _ => runRupd s r cmd o dg dw ks a after
  | .rprog n ws _ ok => runRprog s r n ws ok
  | .rfetch dd da _ _ => runRfetch s r cmd dd da
  | .raudit dw _ _ => runRaudit s r dw
  | _ => .done s 0

end Sys2Proof.Machine
end

