-- ==== Sys2Proof/Machine/Collective.lean ====
section
/-! DEFINITION. Collectives (R61, R246 to R248, R328 to R336): groups and ranks, local contributions, the exchange of
headers, exponent codes, alignment codes and windows between members, results, exports, timeouts and error responses. -/
namespace Sys2Proof.Machine

open Sys2Proof.Num

/-! ## Devices, groups, ranks (R328, R329, R346) -/

/-- Sizes of w, x, y, z. -/
def State.topo (s : State) (d : Nat) : Nat := s.field Reg.RUN_TOPO (27 - 3 * d) (25 - 3 * d) + 1

/-- Device address from slot and coordinates. -/
def mkAddr (slot w x y z : Nat) : Nat := slot * 4096 + w * 512 + x * 64 + y * 8 + z

/-- Member addresses of a group in rank order: the slot fastest, then w, x, y, z; none for an entry that is not valid. -/
def State.groupMembers (s : State) (grp : Nat) : Option (List Nat) :=
  let e := s.reg (grpOff grp 0)
  let lo (d : Nat) : Nat := fld e (44 - 6 * d) (42 - 6 * d)
  let cn (d : Nat) : Nat := fld e (41 - 6 * d) (39 - 6 * d) + 1
  if !bitOf e 0 || (List.range 4).any (fun d => decide (s.topo d < cn d)) then none
  else
    let co (d o : Nat) : Nat := (lo d + o) % s.topo d
    some ((List.range (cn 3)).flatMap fun oz => (List.range (cn 2)).flatMap fun oy => (List.range (cn 1)).flatMap fun ox =>
      (List.range (cn 0)).flatMap fun ow => ((List.range 9).filter fun k => bitOf e (46 + k)).map fun k =>
        mkAddr k (co 0 ow) (co 1 ox) (co 2 oy) (co 3 oz))

/-- This device's rank in a member list. -/
def State.rankIn (s : State) (ms : List Nat) : Option Nat :=
  if ms.contains s.devAddr then some (ms.idxOf s.devAddr) else none

/-- Moulds of `LMASK`. -/
def State.lmask (s : State) (grp : Nat) : List Nat :=
  (List.range 256).filter fun g => bitOf (s.reg (grpOff grp (1 + g / 64))) (g % 64)

/-! ## Slots (R330, R333, R334) -/

def maxSlots : Nat := 12582912

/-- Slots that exported results take: 4 B each. -/
def Contrib.exportSlots (c : Contrib) : Nat := cdiv (4 * totalBy (fun e => e.2.length) c.exports) 16

/-- Landing slots that a routing step holds (R343). -/
def RouteStep.landing (r : RouteStep) : Nat :=
  if r.phase = .space ∨ r.phase = .void ∨ r.phase = .error then 0
  else r.unit * (r.choices.filter fun c => c.st != .dropped && c.st != .combined).length

/-- `RUN_BUF_FREE`. -/
def State.bufFree (s : State) : Nat :=
  maxSlots - (totalBy (fun c : Coll => (if c.phase = .slots then 0 else c.slots) + totalBy Contrib.exportSlots c.local_) s.runner.colls
    + totalBy (fun h : HeldRed => h.slots) s.runner.held + totalBy RouteStep.landing s.runner.steps)

/-- Collectives that hold their place among the 64. -/
def State.openColls (s : State) : Nat := (s.runner.colls.filter fun c => c.phase != .slots && c.phase != .done).length

/-! ## The record of a collective -/

def State.findColl (s : State) (grp cseq : Nat) : Option Coll :=
  s.runner.colls.find? fun c => c.grp == grp && c.cseq == cseq

def State.putColl (s : State) (c : Coll) : State :=
  { s with runner := { s.runner with
    colls := s.runner.colls.map fun x => if x.grp = c.grp ∧ x.cseq = c.cseq then c else x } }

def State.dropColl (s : State) (grp cseq : Nat) : State :=
  { s with runner := { s.runner with colls := s.runner.colls.filter fun x => ¬(x.grp = grp ∧ x.cseq = cseq) } }

def CollKind.code : CollKind → BitVec 3
  | .rscat => 0 | .agath => 1 | .ared => 2 | .a2a => 3 | .rnorm => 4

/-- Sum-forming kinds that write a tensor. -/
def CollKind.reduces : CollKind → Bool
  | .rscat | .ared => true
  | _ => false
def CollKind.copies : CollKind → Bool
  | .agath | .a2a => true
  | _ => false

/-- Members of an open collective, and this device's rank. -/
def Coll.members (c : Coll) (s : State) : List Nat := (s.groupMembers c.grp).getD []
def Coll.rank (c : Coll) (s : State) : Nat := (s.rankIn (c.members s)).getD 0
def Coll.m (c : Coll) (s : State) : Nat := max 1 (c.members s).length

/-- Set the posted value of a mould's collective in its queue; the queue's head retires with it (R248). -/
def State.collPost (s : State) (g ser : Nat) (v : W64) : State :=
  s.updMould g fun m => m.setQueue 4 ((m.queue 4).map fun q => match q with
    | .work n (.coll k o ds dd de ok sr _) => if sr = ser then .work n (.coll k o ds dd de ok sr (some v)) else q
    | q => q)

/-- Post to every local mould. -/
def Coll.postAll (c : Coll) (s : State) (v : W64) : State :=
  c.local_.foldl (fun s x => s.collPost x.g x.ser v) s

/-- The collective ends with a posted value; `v` is what a repeat would post (R381). -/
def Coll.finish (c : Coll) (s : State) (v : W64) : State :=
  let s := (c.postAll s v).dropColl c.grp c.cseq
  { s with runner := { s.runner with finished := s.runner.finished ++ [(c.grp, c.cseq, c.heat, v)] } }

/-- Voided (R335): nothing is written, 0 is posted, one violation. -/
def Coll.void (c : Coll) (s : State) (timeout : Bool) : State :=
  ((c.finish s 0).count Reg.RUN_CNT_VIOL 1).count Reg.RUN_CNT_CTO (b2n timeout)

/-! ## Elements and terms -/

/-- Tile rows and the packed tiles of a sparse tensor in directory order. -/
def sparseTiles (v : View) (s : State) (g : Nat) : List Tile := v.tiles.map fun t => v.readTile s g t.1 t.2

/-- Image whose extents give the full shape (R247, R331): `DS`; with exports, or for a gather, `DD`. -/
def Coll.shapeImg (c : Coll) : W512 :=
  if c.xsrc ∨ c.kind = .agath then c.dd.getD voidImage
  else match c.local_ with
    | x :: _ => x.ds
    | [] => voidImage

/-- Full extents of the reduced tensor: with exports a `RSCAT` has M times `DD`'s split extent (R334; log entry 43). -/
def Coll.fullExt (c : Coll) (s : State) : List Nat :=
  let d := c.shapeImg
  let e := imgExts d
  let top := max 1 (imgFld d 0 59 57) - 1
  if c.xsrc ∧ c.kind = .rscat then e.set top (e.getD top 1 * c.m s) else e

/-- The tensor that the protocol's elements belong to: sparse where `DS` (or the export's `DD`) is. -/
def Coll.sparseRef (c : Coll) (s : State) (g : Nat) : Option (List Tile × View) :=
  match viewOf c.shapeImg with
  | some v => if v.layout = .sparse then some (sparseTiles v s g, v) else none
  | none => none

/-- First tile row of `DD` within the full tensor: its own part's first row where it holds only its part (log entry 43). -/
def Coll.ddRow (c : Coll) (s : State) (full dd : View) : Nat :=
  if c.kind = .rscat ∧ dd.tileRows ≠ full.tileRows then c.rank s * (full.tileRows / c.m s) else 0

/-- Reference tile for NNZ (R333): `DD`'s where `DD` covers it, else the contribution's own. -/
def Coll.refTile (c : Coll) (s : State) (g : Nat) (v : View) (t : Tile) : Tile :=
  match viewOf (c.dd.getD voidImage) with
  | some d =>
    let r := c.ddRow s v d
    if d.layout = .sparse ∧ d.dev = s.devAddr ∧ r ≤ t.tr ∧ d.inGrid (t.tr - r) t.tc then
      let x := d.readTile s g (t.tr - r) t.tc
      if x.malformed then t else x
    else t
  | none => t

/-- Index in the full shape of every element, in element order (R332, R333). -/
def Coll.elems (c : Coll) (s : State) (g : Nat) : List Nat :=
  match c.sparseRef s g with
  | some (ts, v) => ts.flatMap fun t => (c.refTile s g v t).entries.map fun e => v.densePos t.tr t.tc e.pos
  | none => List.range (product (c.fullExt s))

/-- The tiles of part r of a sparse tensor. -/
def Coll.partTiles (c : Coll) (s : State) (ts : List Tile) (v : View) (r : Nat) : List Tile :=
  ts.filter fun t => t.tr / max 1 (v.tileRows / c.m s) == r

/-- NNZ of the tiles of part r as this device has them; none for a tensor that is not sparse (R333). -/
def Coll.nnz (c : Coll) (s : State) (g r : Nat) : List Nat :=
  match c.sparseRef s g with
  | some (ts, v) => (c.partTiles s ts v r).map fun t => (c.refTile s g v t).entries.length
  | none => []

/-- Values of a part in the sender's tiles brought to the reader's: a tile whose NNZ differs is made of `z` and counted; without
tiles nothing changes (R333). -/
def alignTo {α : Type} (z : α) : List Nat → List Nat → List α → List α × Nat
  | [], _, vs => (vs, 0)
  | n :: ref, l, vs =>
    let k := l.headD 0
    let r := alignTo z ref l.tail (vs.drop k)
    if ref.isEmpty then (if k = n then (vs.take k, 0) else (List.replicate n z, 1))
    else ((if k = n then vs.take k else List.replicate n z) ++ r.1, b2n (k != n) + r.2)

/-- Element range of part r: by the split dimension, or by tile rows (R247, R333). -/
def Coll.part (c : Coll) (s : State) (g r : Nat) : Nat × Nat :=
  match c.sparseRef s g with
  | some _ =>
    let size (q : Nat) : Nat := totalBy id (c.nnz s g q)
    (totalBy size (List.range r), size r)
  | none =>
    let p := product (c.fullExt s) / c.m s
    (r * p, p)

/-- Binary32 value of an exact one, rounded to nearest (R57: terms are binary32). -/
def toF32 (v : Val) : W32 := BitVec.ofNat 32 (convert .e8m23 .rne 0 v).1

/-- The values of a `DS` in element order, and the violations of reading it. With `XSRC` it is not read (R246): what an `RNORM` then
adds up is free (log entry 44). -/
def Coll.values (c : Coll) (s : State) (x : Contrib) : List Val × Nat :=
  if c.xsrc then ((List.range (product (imgExts x.ds))).map fun e => ofF32 (Config.exportWord x.free e), 0)
  else match viewOf x.ds with
  | some v =>
    if v.layout = .sparse then
      let ts := sparseTiles v s x.g
      let r := ts.map fun t =>
        let ref := if c.kind = .rnorm then t else c.refTile s x.g v t
        if t.malformed then (List.replicate ref.entries.length Val.zero, 1)
        else if t.entries.length ≠ ref.entries.length then (List.replicate ref.entries.length Val.zero, 1)
        else (t.entries.zipIdx.map fun e => if e.1.bad then Val.zero else t.value v e.1.code e.2, t.badCount)
      (r.flatMap (·.1), totalBy (·.2) r)
    else
      let cells := v.runs.flatMap fun o => (List.range (v.e 0)).map fun i => v.read s x.g i o
      (cells.map (·.1), totalBy (·.2) cells)
  | none => (List.replicate (product (imgExts x.ds)) Val.zero, 1)

/-- The first 2³¹ terms of an output; what passes that limit contributes zero and is counted (R59, R70). -/
def limitTerms {α : Type} (l : List α) : List α × Nat := (l.take RefSum.maxTerms, l.length - RefSum.maxTerms)

/-- Terms of this device for each element, with the violations counted (R248, R331, R334). -/
def Coll.localTerms (c : Coll) (s : State) : List (Nat × RefSum.Terms) × Nat :=
  let g := match c.local_ with
    | x :: _ => x.g
    | [] => 0
  let ns := c.elems s g
  if c.xsrc then
    let ts := ns.map fun n => (n, limitTerms (c.local_.flatMap fun x => RefSum.ofBits (SMap.get [] x.exports n)))
    (ts.map fun t => (t.1, t.2.1), totalBy (fun t => t.2.2) ts)
  else
    let vs := c.local_.map fun x => (x.segbase, c.values s x)
    (ns.zipIdx.map fun n => (n.1, vs.map fun v => (v.1, ofF32 (toF32 (v.2.1.getD n.2 Val.zero)))),
     totalBy (fun v => v.2.2) vs)

/-- Terms of an `RNORM` (R248, R333): segment results of the squares; a held reduction is read in place of `DS`. -/
def Coll.normTerms (c : Coll) (s : State) : RefSum.Terms × Nat :=
  let r := c.local_.map fun x =>
    let held := if c.xsrc then none else s.runner.held.find? fun h => h.tid == imgTid x.ds && h.heat == c.heat
    let vals : List Val × Nat := match held with
      | some h => (h.vals.map ofF32, 0)
      | none => c.values s x
    let wide := match held, viewOf x.ds with
      | none, some v => c.xsrc || decide (8 < v.fmt.width)
      | _, _ => true
    (RefSum.segments RefSum.plainCtx wide (vals.1.zipIdx.map fun v => (2048 * x.segbase + v.2, v.1, v.1)), vals.2)
  let l := limitTerms (r.flatMap fun x => x.1.map fun t => (t.1, t.2.1))
  (RefSum.ofBits l.1, totalBy (·.2) r + l.2)

/-- Exponent code of an element's terms (R331). -/
def codeOf (ts : RefSum.Terms) : W16 :=
  if ts.any RefSum.badTerm then 0x7FFF
  else match RefSum.alignOf ts with
    | none => 0x8000
    | some e => BitVec.ofInt 16 e

/-- The largest of codes: a NaN above all, no live term below all. -/
def maxCode (cs : List W16) : W16 :=
  if cs.contains 0x7FFF then 0x7FFF
  else match RefSum.maxExp ((cs.filter (· != 0x8000)).map (·.toInt)) with
    | none => 0x8000
    | some e => BitVec.ofInt 16 e

/-- An alignment exponent; none where no window is sent. -/
def alignExp (c : W16) : Option Int := if c = 0x8000 ∨ c = 0x7FFF then none else some c.toInt

/-- Context of a collective's window words (R64). -/
def Coll.sumCtx (c : Coll) (s : State) (tid n : Nat) : RefSum.SumCtx :=
  ⟨.rne, if c.kind = .rnorm then .rne else modeSR c.wrs, ⟨s.heats.seed, c.heat, tid⟩, n⟩

/-- A partial window (R331 step 4). -/
def Coll.window (c : Coll) (s : State) (tid : Nat) (code : W16) (e : Nat × RefSum.Terms) : BitVec 96 :=
  match alignExp code with
  | some a => BitVec.ofInt 96 (RefSum.windowSum (c.sumCtx s tid e.1) a e.2)
  | none => 0

/-- The result of an element from its alignment code and the sum of the windows (R331 step 5): bits and saturation. -/
def windowResult (code : W16) (w : BitVec 96) : W32 × Bool :=
  if code = 0x7FFF then (nan32, false)
  else match alignExp code with
    | none => (0, false)
    | some a => RefSum.finishWindow w.toInt a

/-! ## Issue (R246, R247, R329, R330) -/

/-- Fields of a collective descriptor (R246). -/
def collCseq (de : List W64) : Nat := fld (de.getD 0 0) 63 32
def collGrp (de : List W64) : Nat := fld (de.getD 0 0) 31 24
def collRm (de : List W64) : Nat := if fld (de.getD 0 0) 6 5 = 3 then 0 else fld (de.getD 0 0) 6 5

/-- Extent of the split dimension of an image (R247). -/
def splitExt (d : W512) : Nat :=
  match viewOf d with
  | some v => if v.layout = .sparse then v.tileRows else (imgExts d).getD (imgFld d 0 59 57 - 1) 1
  | none => (imgExts d).getD (max 1 (imgFld d 0 59 57) - 1) 1

/-- Elements of a tensor (R333: packed values of a sparse one). -/
def elemCount (s : State) (g : Nat) (d : W512) : Nat :=
  match viewOf d with
  | some v => if v.layout = .sparse then totalBy (fun t => t.entries.length) (sparseTiles v s g) else v.count
  | none => product (imgExts d)

/-- `XSRC`: the contribution arrives by export and `DS` is not read (R246, R334). -/
def collXsrc (de : List W64) : Bool := bitOf (de.getD 0 0) 8

/-- The writer: the lowest mould of `LMASK` (R329). -/
def State.isWriter (s : State) (grp g : Nat) : Bool := (s.lmask grp).head? == some g

/-- Slots that a collective needs (R330), from the contribution, or with exports from the writer's `DD`. -/
def collNeed (s : State) (g : Nat) (kind : CollKind) (ds dd : W512) (xsrc : Bool) (m : Nat) : Nat :=
  match kind with
  | .rnorm => 1
  | .rscat => if xsrc then elemCount s g dd else elemCount s g ds / m
  | .ared => elemCount s g (if xsrc then dd else ds) / m
  | _ => 0

/-- What the images of an issuing mould rule out: a split that does not go by M (R247), or too many slots (R330). With exports into a
reduction it is the writer's `DD` that is split, and no other mould's is read (R329, R334). -/
def collMisfit (s : State) (g : Nat) (kind : CollKind) (ds dd : W512) (de : List W64) (m : Nat) : Bool :=
  let byDd := collXsrc de && kind.reduces
  let split := if byDd then splitExt dd * (if kind = .rscat then m else 1) else splitExt ds
  (!byDd || s.isWriter (collGrp de) g)
    && (split % max 1 m != 0 || decide (maxSlots < collNeed s g kind ds dd byDd (max 1 m)))

/-- A collective that its own device refuses. -/
def collRefused (s : State) (g : Nat) (kind : CollKind) (ds dd : W512) (de : List W64) (descOk : Bool) : Bool :=
  let grp := collGrp de
  let lm := s.lmask grp
  !descOk ||
  match s.groupMembers grp with
  | none => true
  | some ms =>
    !ms.contains s.devAddr || !lm.contains g || (kind.copies && lm.length != 1) || collMisfit s g kind ds dd de ms.length

/-- The local contribution of mould g arrives: a repeat of a re-executed index counts once (R381). -/
def Coll.join (c : Coll) (s : State) (g ser : Nat) (ds dd : W512) (segbase : Nat) : Coll :=
  let c := if s.isWriter c.grp g then
      { c with dd := some dd
               slots := if c.xsrc && c.kind.reduces then collNeed s g c.kind ds dd true (c.m s) else c.slots }
    else c
  if c.local_.any fun x => x.g == g then
    { c with local_ := c.local_.map fun x => if x.g = g then { x with ser := ser } else x }
  else { c with local_ := c.local_ ++ [⟨g, ds, ser, segbase, [], s.free⟩] }

/-! ## The exchange (R331) -/

/-- The slots and a place are there (R330); with exports they are known once the writer has issued. -/
def Coll.fits (c : Coll) (s : State) : Bool :=
  (!(c.xsrc && c.kind.reduces) || c.dd.isSome) && decide (c.slots ≤ s.bufFree ∧ s.openColls < 64)

/-- Every mould of `LMASK` has issued, and with exports every element of the full shape has its S_m results (R334). -/
def Coll.localReady (c : Coll) (s : State) : Bool :=
  let lm := s.lmask c.grp
  lm.all (fun g => c.local_.any fun x => x.g == g)
    && (!(c.xsrc && c.kind.reduces) || c.local_.all fun x => (c.elems s x.g).all fun n =>
      decide (imgExt x.ds 0 ≤ (SMap.get [] x.exports n).length))

/-- The collective stands at the head of every local mould's runner queue: what each issued there before it has retired, so `DS` may
be read and `DD` written (R172, R220). -/
def Coll.atHead (c : Coll) (s : State) : Bool :=
  c.local_.all fun x => match (s.mould x.g).queue 4 with
    | .work _ (.coll _ _ _ _ _ _ n _) :: _ => n == x.ser
    | _ => false

/-- The header of step 1: `DD`'s `TID` and format, or `DS`'s for a kind that does not write a converted result. -/
def Coll.makeHeader (c : Coll) (s : State) : CollHeader :=
  let ds := match c.local_ with
    | x :: _ => x.ds
    | [] => voidImage
  let d := if c.kind = .rnorm then ds else c.dd.getD voidImage
  { kind := c.kind.code, members := (c.members s).length, tid := BitVec.ofNat 24 (imgTid d),
    fmt := BitVec.ofNat 4 (imgFld (if c.kind.copies then ds else d) 0 63 60),
    ext := (c.fullExt s).map (BitVec.ofNat 32 ·), wrs := c.wrs, rm := BitVec.ofNat 2 c.rm }

/-- Local moulds agree on the extents of their contributions. -/
def Coll.localAgree (c : Coll) : Bool :=
  c.xsrc || match c.local_ with
    | x :: t => t.all fun y => imgExts y.ds == imgExts x.ds
    | [] => true

/-- Step 1 here: send the header, or void. -/
def Coll.sendHeader (c : Coll) (s : State) : Coll × State :=
  let h := c.makeHeader s
  ({ c with header := some h, heads := (c.rank s, h) :: c.heads.filter fun x => x.1 ≠ c.rank s },
   if c.m s = 1 then s else s.send (.header c.grp c.cseq (c.rank s) h))

/-- Element codes of a copied `DS` in logical order, then its scale bytes, as 32-bit words (R247). With `XSRC` it is not read, and
what is sent is free (log entry 44). -/
def Coll.copyData (c : Coll) (s : State) : List (W32) × List W32 × Nat :=
  match c.local_ with
  | x :: _ =>
    if c.xsrc then ((List.range (product (imgExts x.ds))).map (Config.exportWord x.free), [], 0)
    else match viewOf x.ds with
    | some v =>
      if v.layout = .sparse then (List.replicate (product (imgExts x.ds)) 0, [], 1)
      else
        let cells := v.runs.flatMap fun o => (List.range (v.e 0)).map fun i => v.readCode s x.g i o
        let scs := if v.blk = 0 then [] else v.runs.flatMap fun o => (List.range (cdiv (v.e 0) v.blk)).map fun b =>
          (v.byte s x.g (v.scaleAddr o b)).setWidth 32
        (cells.map fun k => BitVec.ofNat 32 k.1, scs, totalBy (·.2) cells)
    | none => (List.replicate (product (imgExts x.ds)) 0, [], 1)
  | [] => ([], [], 0)

/-- Part r of M of a list. -/
def partOf {α : Type} (l : List α) (r m : Nat) : List α := (l.drop (r * (l.length / m))).take (l.length / m)

/-- What a member sends to rank r: all of it, or its part r. -/
def Coll.copyFor (c : Coll) (s : State) (r : Nat) : List W32 :=
  let d := c.copyData s
  if c.kind = .agath then d.1 ++ d.2.1 else partOf d.1 r (c.m s) ++ partOf d.2.1 r (c.m s)

/-- Bytes that the copied data of `copyFor` takes on a link: elements of `DS`'s width, and scales (R336). -/
def Coll.copyBytes (c : Coll) (s : State) (r : Nat) : Nat :=
  let d := c.copyData s
  let w := match c.header with
    | some h => (match Fmt.ofCode h.fmt.toNat with
      | some f => f.width
      | none => 8)
    | none => 8
  if c.kind = .agath then cdiv (d.1.length * w) 8 + d.2.1.length
  else cdiv ((partOf d.1 r (c.m s)).length * w) 8 + (partOf d.2.1 r (c.m s)).length

/-- The mould whose images give the elements. -/
def Coll.first (c : Coll) : Nat :=
  match c.local_ with
  | x :: _ => x.g
  | [] => 0

/-- The requests of a read of every remote `DS` (R83, R327): it is read in step 2 and again in step 4 (R331). -/
def Coll.askAll (c : Coll) (s : State) : State :=
  if c.xsrc then s
  else c.local_.foldl (fun s x => match viewOf x.ds with
    | some v => s.askView v x.g
    | none => s) s

/-- Step 2 here: codes of every part to its owner; copies send their data. -/
def Coll.sendCodes (c : Coll) (s : State) : Coll × State :=
  let me := c.rank s
  let others := (List.range (c.m s)).filter (· != me)
  let asked := c.askAll s
  if c.kind.copies then
    let s' := others.foldl (fun s' r => s'.send (.results c.grp c.cseq r [] (c.copyFor s r) (c.copyBytes s r))) asked
    ({ c with phase := .gather, results := (me, [], c.copyFor s me) :: c.results },
     s'.count Reg.RUN_CNT_VIOL (c.copyData s).2.2)
  else if c.kind = .rnorm then
    let t := c.normTerms s
    let code := [codeOf t.1]
    ({ c with phase := .windows, codes := (me, [], code) :: c.codes },
     (others.foldl (fun s' r => s'.send (.codes c.grp c.cseq r [] code)) asked).count Reg.RUN_CNT_VIOL t.2)
  else
    let t := c.localTerms s
    let cut (r : Nat) : List W16 := let p := c.part s c.first r; ((t.1.drop p.1).take p.2).map fun e => codeOf e.2
    let s' := others.foldl (fun s' r => s'.send (.codes c.grp c.cseq r (c.nnz s c.first r) (cut r))) asked
    ({ c with phase := .windows, codes := (me, c.nnz s c.first me, cut me) :: c.codes }, s'.count Reg.RUN_CNT_VIOL t.2)

/-- Windows of part q at the alignment codes of its owner, whose tiles have `nnz` elements: a tile that has others here contributes zero
(R333), and an element with a NaN or an infinity takes no window (R331). -/
def Coll.windowsFor (c : Coll) (s : State) (q : Nat) (nnz : List Nat) (al : List W16) : List (BitVec 96) :=
  let tid := match c.header with
    | some h => h.tid.toNat
    | none => 0
  let ws := if c.kind = .rnorm then [c.window s tid (al.getD 0 0x8000) (0, (c.normTerms s).1)]
    else
      let p := c.part s c.first q
      let ts := (alignTo ((0, []) : Nat × RefSum.Terms) nnz (c.nnz s c.first q) (((c.localTerms s).1.drop p.1).take p.2)).1
      ts.zipIdx.map fun e => c.window s tid (al.getD e.2 0x8000) e.1
  (ws.zipIdx.filter fun w => al.getD w.2 0x8000 != 0x7FFF).map (·.1)

/-- The windows of a message by element, with none for an element that has a NaN. -/
def spreadWindows : List W16 → List (BitVec 96) → List (BitVec 96)
  | [], _ => []
  | a :: al, ws => if a = 0x7FFF then 0 :: spreadWindows al ws else ws.headD 0 :: spreadWindows al ws.tail

/-- No element of a part takes a window: none is sent, and none awaited (R331 step 4). -/
def noWindows (al : List W16) : Bool := al.all (· == 0x7FFF)

/-- Step 3 here: the largest code per element of this device's part, when every member's codes are in. A member's tile whose NNZ is not
that of this device's contributes zero and is counted (R333). -/
def Coll.sendAlign (c : Coll) (s : State) : Coll × State :=
  let me := c.rank s
  if (c.align.any fun a => a.1 == me) || decide (c.codes.length < c.m s) then (c, s)
  else
    let ref := if c.kind = .rnorm then [] else c.nnz s c.first me
    let cs := c.codes.map fun x => alignTo (0x8000 : W16) ref x.2.1 x.2.2
    let n := match cs with
      | x :: _ => x.1.length
      | [] => 0
    let al := (List.range n).map fun i => maxCode (cs.map fun x => x.1.getD i 0x8000)
    let w := c.windowsFor s me ref al
    let others := (List.range (c.m s)).filter (· != me)
    let asked := (c.askAll s).count Reg.RUN_CNT_VIOL (totalBy (·.2) cs)
    ({ c with align := (me, ref, al) :: c.align, windows := (me, w) :: c.windows, answered := me :: c.answered },
     if c.m s = 1 then asked
     else if c.kind = .rnorm then
       (if noWindows al then asked else others.foldl (fun s' r => s'.send (.window c.grp c.cseq r w)) asked)
     else asked.send (.align c.grp c.cseq ref al))

/-- Step 4 here: answer the alignment codes of the other owners. -/
def Coll.answer (c : Coll) (s : State) : Coll × State :=
  if c.codes.all (fun x => x.1 != c.rank s) then (c, s)
  else
    let todo := c.align.filter fun a => !c.answered.contains a.1
    ({ c with answered := todo.map (·.1) ++ c.answered },
     todo.foldl (fun s' a => if noWindows a.2.2 then s'
       else s'.send (.window c.grp c.cseq a.1 (c.windowsFor s a.1 a.2.1 a.2.2))) s)

/-- Step 5 here: the results of this device's part. -/
def Coll.sumWindows (c : Coll) (s : State) : Coll × State :=
  let me := c.rank s
  match c.align.find? (fun a => a.1 == me) with
  | none => (c, s)
  | some (_, ref, al) =>
    if (!noWindows al && decide (c.windows.length < c.m s)) ∨ c.phase ≠ .windows then (c, s)
    else
      let ws := c.windows.map fun x => spreadWindows al x.2
      let rs := al.zipIdx.map fun a => windowResult a.1 (ws.foldl (fun w x => w + x.getD a.2 0) 0)
      let vs := rs.map (·.1)
      let others := (List.range (c.m s)).filter (· != me)
      ({ c with phase := .gather, results := (me, ref, vs) :: c.results },
       (if c.kind = .ared then others.foldl (fun s' r => s'.send (.results c.grp c.cseq r ref vs (4 * vs.length))) s else s).count
         Reg.RUN_CNT_SAT (rs.filter (·.2)).length)

/-! ## Writing `DD` (R331 step 6, R332, R333) -/

/-- Values into the packed slots of one tile of a sparse destination: scales chosen, clamps counted. -/
def View.putTile (v : View) (s : State) (g : Nat) (t : Tile) (vals : List Val) (mode : RMode) (ctx : Ctx) : State × Nat :=
  let n := t.entries.length
  let scales := if v.blk = 0 then [] else (List.range (cdiv n v.blk)).map fun b =>
    chooseScale v.fmt v.mx ((vals.drop (b * v.blk)).take v.blk)
  let done := vals.zipIdx.map fun p =>
    let y := if v.blk = 0 then p.1 else p.1.scale (-(scaleExp v.fmt v.mx (scales.getD (p.2 / v.blk) 127)))
    let i := v.densePos t.tr t.tc (t.entries.getD p.2 ⟨0, 0, false⟩).pos
    convert v.fmt mode (if mode = .sr then elemWord ctx i else 0) y
  let a := v.recAddr t.dir.off + patLen t.dir.enc n
  ((s.storeDesc g a (scales.map (BitVec.ofNat 8 ·))).storeDesc g (a + scLen v.blk n) (packValues v.fmt (done.map (·.1))),
   (done.filter fun d => d.2.any).length)

/-- Write results from full element index `base` on into a dense destination; elements past the results stay. -/
def writeDenseResults (s : State) (g : Nat) (v : View) (base : Nat) (vals : List W32) (mode : RMode) : State × WStat :=
  v.runs.zipIdx.foldl (fun (a : State × WStat) o =>
    let xs := (List.range (v.e 0)).filterMap fun i => (vals[o.2 * v.e 0 + i]?).map fun b => (i, ofF32 b)
    let r := v.writeRun a.1 g o.1 xs mode (a.1.rctx v.tid) 0 base
    (r.1, a.2.add r.2)) (s, {})

/-- Write the results of one part into a sparse destination, tile by tile; `nnz` are the tiles' elements at the part's owner. A tile
that has others here is not written and counts (R333). Violations and clamps. -/
def writeSparsePart (s : State) (g row : Nat) (dd : View) (mode : RMode) : List Tile → List Nat → List W32 → State × Nat × Nat
  | [], _, _ => (s, 0, 0)
  | t :: ts, nnz, vals =>
    let n := nnz.headD 0
    let x := dd.readTile s g (t.tr - row) t.tc
    if t.tr < row ∨ !dd.inGrid (t.tr - row) t.tc ∨ x.malformed ∨ x.entries.length ≠ n then
      let r := writeSparsePart s g row dd mode ts nnz.tail (vals.drop n)
      (r.1, r.2.1 + 1, r.2.2)
    else
      let p := dd.putTile s g { x with tr := t.tr } ((vals.take n).map ofF32) mode (s.rctx dd.tid)
      let r := writeSparsePart p.1 g row dd mode ts nnz.tail (vals.drop n)
      (r.1, r.2.1 + x.hits, r.2.2 + p.2)

/-- Write the results that `DD` holds into a sparse destination, part by part. -/
def Coll.writeSparseResults (c : Coll) (s : State) (g : Nat) (full dd : View) (ts : List Tile)
    (parts : List (Nat × List Nat × List W32)) (mode : RMode) : State × Nat × Nat :=
  let row := c.ddRow s full dd
  parts.foldl (fun (a : State × Nat × Nat) p =>
    let r := writeSparsePart a.1 g row dd mode (c.partTiles s ts full p.1) p.2.1 p.2.2
    (r.1, a.2.1 + r.2.1, a.2.2 + r.2.2)) (s, 0, 0)

/-- Write the writer's `DD` (R329) with the results of its parts, in rank order. -/
def Coll.writeDD (c : Coll) (s : State) (parts : List (Nat × List Nat × List W32)) : State :=
  let g := ((s.lmask c.grp).head?).getD 0
  let mode := RMode.ofCode c.rm
  match viewOf (c.dd.getD voidImage) with
  | none => s.count Reg.RUN_CNT_VIOL 1
  | some v =>
    if v.alias_ ∨ v.dev ≠ s.devAddr ∨ v.fmt = .e8m0 then s.count Reg.RUN_CNT_VIOL 1
    else if v.layout = .sparse then
      match c.sparseRef s g with
      | some (ts, full) =>
        let r := c.writeSparseResults s g full v ts parts mode
        (r.1.count Reg.RUN_CNT_VIOL r.2.1).count Reg.RUN_CNT_CLAMP r.2.2
      | none => s.count Reg.RUN_CNT_VIOL 1
    else
      let base := if c.kind = .rscat then (c.part s g (c.rank s)).1 else 0
      let r := writeDenseResults s g v base (parts.flatMap fun p => p.2.2) mode
      (r.1.count Reg.RUN_CNT_VIOL r.2.viol).count Reg.RUN_CNT_CLAMP r.2.clamps

/-- Copy the members' data into `DD` in rank order, codes and scales bit for bit (R247; log entry 45). -/
def Coll.writeCopy (c : Coll) (s : State) : State :=
  let g := ((s.lmask c.grp).head?).getD 0
  let parts := (List.range (c.m s)).map fun r => match c.results.find? (fun x => x.1 == r) with
    | some x => x.2.2
    | none => []
  let nd := match c.local_ with
    | x :: _ => product (imgExts x.ds) / (if c.kind = .agath then 1 else c.m s)
    | [] => 0
  let codes := parts.flatMap fun p => p.take nd
  let scs := parts.flatMap fun p => p.drop nd
  match viewOf (c.dd.getD voidImage) with
  | none => s.count Reg.RUN_CNT_VIOL 1
  | some v =>
    if v.alias_ ∨ v.dev ≠ s.devAddr ∨ v.layout = .sparse ∨ v.fmt = .e8m0 then s.count Reg.RUN_CNT_VIOL 1
    else
      let nb := if v.blk = 0 then 0 else cdiv (v.e 0) v.blk
      v.runs.zipIdx.foldl (fun s o =>
        let cs := (List.range (v.e 0)).filterMap fun i => (codes[o.2 * v.e 0 + i]?).map fun b => (i, b.toNat % 2 ^ v.fmt.width)
        let ok := cs.filter fun x => !v.tlogHit s g x.1 o.1
        let bl := (List.range nb).filterMap fun b =>
          if ok.any fun x => x.1 / max 1 v.blk == b then (scs[o.2 * nb + b]?).map fun x => (b, x.toNat % 256) else none
        (v.putCodes s g o.1 ok bl (ok.map fun x => (x.1, (decode v.fmt x.2).isZero
          && (bl.find? fun b => b.1 == x.1 / max 1 v.blk).map (·.2) != some 255))).count Reg.RUN_CNT_VIOL
            (cs.length - ok.length)) s

/-- Hold this device's part until the heat ends (R333). -/
def Coll.holdResults (c : Coll) (s : State) (vals : List W32) : State :=
  if !c.hold then s
  else
    let g := ((s.lmask c.grp).head?).getD 0
    let tid := match c.header with
      | some h => h.tid.toNat
      | none => 0
    { s with runner := { s.runner with
      held := s.runner.held ++ [⟨tid, c.heat, (c.part s g (c.rank s)).1, vals, c.slots⟩] } }

/-- A collective whose work for `DD` is done is on record: a repeat posts `v`, a late message counts (R335, R381). -/
def State.noteFinished (s : State) (c : Coll) (v : W64) : State :=
  { s with runner := { s.runner with finished := s.runner.finished ++ [(c.grp, c.cseq, c.heat, v)] } }

/-- Step 6: every result that `DD` needs is in: write, post, release. What a tensor-writing collective posts is not stated:
a free value (log entry 46). -/
def Coll.conclude (c : Coll) (s : State) : State :=
  let me := c.rank s
  let own := (c.results.find? (fun x => x.1 == me)).getD (me, [], [])
  let all := (List.range (c.m s)).filterMap fun r => c.results.find? fun x => x.1 == r
  let have_ := c.results.any (fun x => x.1 == me)
  let ready := match c.kind with
    | .rscat | .rnorm => have_
    | _ => decide (c.m s ≤ c.results.length)
  if c.phase ≠ .gather ∨ !ready then s.putColl c
  else
    let s := match c.kind with
      | .rscat => c.holdResults (c.writeDD s [own]) own.2.2
      | .ared => c.holdResults (c.writeDD s all) own.2.2
      | .rnorm => s
      | _ => c.writeCopy s
    let f := s.freshWord
    let v : W64 := if c.kind = .rnorm then (own.2.2.getD 0 0).setWidth 64 else f.1
    let s := if c.kind = .rnorm then s else f.2
    if c.kind.reduces ∧ c.answered.length < c.m s then
      ((c.postAll s v).putColl { c with phase := .done, slots := 0, hold := false }).noteFinished c v
    else c.finish s v

/-- Host-assisted global norm (R401): once every local mould has issued, the sum of this device's squares goes to the holder in
a norm event and each mould posts its `MID_HSCALAR` 15; nothing is sent (log entry 49). -/
def Coll.hostNorm (c : Coll) (s : State) : State :=
  let t := c.normTerms s
  let r := RefSum.combine RefSum.plainCtx t.1
  let unit := match c.local_ with
    | x :: _ => x.g
    | [] => 0
  let s := (s.count Reg.RUN_CNT_VIOL t.2).event 0x40 unit [(24, 4, r.1.toNat), (28, 4, c.cseq), (32, 1, c.grp)]
  let s := c.local_.foldl (fun s x => s.collPost x.g x.ser
    ((((s.mould x.g).reg (Reg.MID_HSCALAR + 120)).setWidth 32 : W32).setWidth 64)) s
  let v : W64 := (((s.mould unit).reg (Reg.MID_HSCALAR + 120)).setWidth 32 : W32).setWidth 64
  (s.dropColl c.grp c.cseq).noteFinished c v

/-- Move a collective as far as what has arrived allows. -/
def State.advanceColl (s : State) (grp cseq : Nat) : State :=
  match s.findColl grp cseq with
  | none => s
  | some c =>
    if c.phase = .slots then s
    else if c.kind = .rnorm ∧ s.modeBit 5 = true then
      if c.localReady s && c.atHead s then c.hostNorm s else s
    else
      let (c, s) := if c.phase = .headers ∧ c.header = none ∧ c.localReady s then c.sendHeader s else (c, s)
      match c.header with
      | none => s.putColl c
      | some h =>
        if !c.localAgree ∨ c.heads.any (fun x => x.2 != h) then c.void s false
        else
          let (c, s) := if c.phase = .headers ∧ c.m s ≤ c.heads.length ∧ c.atHead s then c.sendCodes s else (c, s)
          if c.phase = .done then
            let (c, s) := c.answer s
            if c.m s ≤ c.answered.length then s.dropColl c.grp c.cseq else s.putColl c
          else if c.phase = .headers ∨ c.kind.copies then c.conclude s
          else
            let (c, s) := c.sendAlign s
            let (c, s) := if c.kind = .rnorm then (c, s) else c.answer s
            let (c, s) := c.sumWindows s
            c.conclude s

/-! ## Messages of the members -/

/-- Add to a list by rank, once. -/
def addRank {α : Type} (l : List (Nat × α)) (r : Nat) (v : α) : Option (List (Nat × α)) :=
  if l.any (fun x => x.1 == r) then none else some (l ++ [(r, v)])

/-- A message for an open collective: none where it is a duplicate. -/
def Coll.take (c : Coll) (i : Instr) : Option Coll :=
  match i with
  | .collectiveHeader _ _ r hd => (addRank c.heads r hd).map fun l => { c with heads := l }
  | .exponentCode _ _ r x => (addRank c.codes r (x.nnz.map (·.toNat), x.codes)).map fun l => { c with codes := l }
  | .alignmentCode _ _ q x => (addRank c.align q (x.nnz.map (·.toNat), x.codes)).map fun l => { c with align := l }
  | .partialWindow _ _ r ws => (addRank c.windows r ws).map fun l => { c with windows := l }
  | .resultGather _ _ r x => (addRank c.results r (x.nnz.map (·.toNat), x.results)).map fun l => { c with results := l }
  | _ => none

/-- A member's message (R331, R335): kept until the local issue, ignored and counted where it comes late or twice. -/
def State.collMessage (s : State) (grp cseq rank : Nat) (i : Instr) : State :=
  match s.findColl grp cseq with
  | some c =>
    if c.m s ≤ rank ∨ rank = c.rank s then s.count Reg.RUN_CNT_VIOL 1
    else match c.take i with
      | some c => (s.putColl c).advanceColl grp cseq
      | none => s.count Reg.RUN_CNT_VIOL 1
  | none =>
    if s.runner.finished.any fun f => f.1 == grp && f.2.1 == cseq then s.count Reg.RUN_CNT_VIOL 1
    else { s with runner := { s.runner with early := s.runner.early ++ [i] } }

/-- Group, sequence number and rank that a collective message names. -/
def collKeyOf (i : Instr) : Option (Nat × Nat × Nat) :=
  match i with
  | .collectiveHeader grp cseq r _ => some (grp.toNat, cseq.toNat, r)
  | .exponentCode grp cseq r _ => some (grp.toNat, cseq.toNat, r)
  | .alignmentCode grp cseq q _ => some (grp.toNat, cseq.toNat, q)
  | .partialWindow grp cseq r _ => some (grp.toNat, cseq.toNat, r)
  | .resultGather grp cseq r _ => some (grp.toNat, cseq.toNat, r)
  | _ => none

/-- Deliver the messages that came before the local issue. -/
def State.replayEarly (s : State) (grp cseq : Nat) : State :=
  let mine (i : Instr) : Bool := match collKeyOf i with
    | some k => k.1 == grp && k.2.1 == cseq
    | none => false
  let l := s.runner.early.filter mine
  let s := { s with runner := { s.runner with early := s.runner.early.filter fun i => !mine i } }
  l.foldl (fun s i => match collKeyOf i with
    | some k => s.collMessage k.1 k.2.1 k.2.2 i
    | none => s) s

/-- A collective that waits for slots or a place starts once both are free (R330). -/
def State.grantColl (s : State) (grp cseq : Nat) : State :=
  match s.findColl grp cseq with
  | some c => if c.phase = .slots ∧ c.fits s then (s.putColl { c with phase := .headers }).advanceColl grp cseq else s
  | none => s

/-- The collective of a first local issue, before its mould joins. -/
def newColl (s : State) (g : Nat) (kind : CollKind) (ds dd : W512) (de : List W64) : Coll :=
  let w0 := de.getD 0 0
  let m := ((s.groupMembers (collGrp de)).getD []).length
  { grp := collGrp de, cseq := collCseq de, kind := kind, hold := kind.reduces && bitOf w0 9, xsrc := collXsrc de,
    wrs := bitOf w0 7, rm := collRm de, heat := s.heatNum, since := s.cnt, phase := .slots, local_ := [], dd := none,
    header := none, heads := [], codes := [], align := [], windows := [], results := [], answered := [],
    slots := collNeed s g kind ds dd (collXsrc de && kind.reduces) (max 1 m) }

/-- A collective issues into the runner queue: the state, and the value posted at once where it is refused, repeats one
that has ended in this heat, or has a member that cannot be reached (R246, R325, R329, R381). -/
def State.collIssue (s : State) (g : Nat) (kind : CollKind) (ds dd : W512) (de : List W64) (descOk : Bool) (ser : Nat) :
    State × Option W64 :=
  let s := s.count Reg.RUN_CNT_VIOL (b2n (descOk && fld (de.getD 0 0) 6 5 == 3))
  if collRefused s g kind ds dd de descOk then (s.count Reg.RUN_CNT_VIOL 1, some 0)
  else
    let grp := collGrp de
    let cseq := collCseq de
    let w0 := de.getD 0 0
    let seg := fld (de.getD 1 0) 39 0
    match s.runner.finished.find? (fun f => f.1 == grp && f.2.1 == cseq && f.2.2.1 == s.heatNum) with
    | some f => (s, some f.2.2.2)
    | none =>
      if ((s.groupMembers grp).getD []).any fun d => s.runner.down.contains d then (s, some (BitVec.allOnes 64))
      else
      let s := s.updMould g fun m => { m with collIssued := m.collIssued ++ [(imgTid (if kind = .rnorm then ds else dd), grp, cseq)] }
      match s.findColl grp cseq with
      | some c =>
        let c' := c.join s g ser ds dd seg
        let s := { s.putColl c' with free := s.free + 1 }
        if c.kind ≠ kind ∨ c.wrs ≠ bitOf w0 7 ∨ c.rm ≠ collRm de ∨ c.xsrc ≠ collXsrc de then (c'.void s false, none)
        else ((s.grantColl grp cseq).advanceColl grp cseq, none)
      | none =>
        let c := (newColl s g kind ds dd de).join s g ser ds dd seg
        let s : State := { s with free := s.free + 1, runner := { s.runner with colls := s.runner.colls ++ [c] } }
        ((s.grantColl grp cseq).replayEarly grp cseq, none)

/-! ## Exports (R122, R334) -/

/-- The element's index in the full shape; none outside it. -/
def Coll.exportIndex (c : Coll) (s : State) (g : Nat) (i j : Nat) : Option Nat :=
  let e := c.fullExt s
  if e.getD 0 1 ≤ i ∨ e.getD 1 1 ≤ j then none
  else
    let n := i + e.getD 0 1 * j
    match c.sparseRef s g with
    | some _ => if (c.elems s g).contains n then some n else none
    | none => some n

/-- An export is taken into the reduction buffers, or its results contribute nothing and it is counted once. -/
def Coll.takeExport (c : Coll) (s : State) (x : ExportMsg) : Coll × Bool :=
  match c.local_.find? (fun k => k.g == x.g) with
  | none => (c, false)
  | some k =>
    let els := x.elems.map fun e => (c.exportIndex s x.g e.1 e.2.1, e.2.2)
    let carried := els.filter fun e => e.1.isSome || e.2.any fun t => t.2 != 0
    let inSeq (n : Nat) (ts : List (Nat × W32)) : Bool :=
      ts.zipIdx.all fun t => t.1.1 == k.segbase + (SMap.get [] k.exports n).length + t.2
    let ok := !x.bad && carried.all fun e => match e.1 with
      | some n => inSeq n e.2
      | none => false
    if !ok then (c, false)
    else
      let ex := carried.foldl (fun m e => match e.1 with
        | some n => SMap.set [] m n (SMap.get [] m n ++ e.2)
        | none => m) k.exports
      ({ c with local_ := c.local_.map fun y => if y.g = x.g then { y with exports := ex } else y }, true)

/-- Slots that an export needs. -/
def ExportMsg.need (x : ExportMsg) : Nat := cdiv (4 * totalBy (fun e => e.2.2.length) x.elems) 16

/-- The first export of mould g reaches the runner (R334): it waits for buffer room, and for the writer's shape. -/
def State.exportArrival (s : State) (g : Nat) : State :=
  match s.runner.exports.find? (fun x => x.g == g) with
  | none => s
  | some x =>
    let rest := dropFirst (fun y : ExportMsg => y.g == g) s.runner.exports
    let s' := { s with runner := { s.runner with exports := rest } }
    match s.findColl x.grp x.cseq with
    | none => s'.count Reg.RUN_CNT_VIOL 1
    | some c =>
      if c.phase = .slots ∨ c.dd = none ∨ s.bufFree < x.need then s
      else
        let r := c.takeExport s' x
        if r.2 then (s'.putColl r.1).advanceColl x.grp x.cseq else s'.count Reg.RUN_CNT_VIOL 1

/-- The collective that an exporting instruction of mould g goes to (R237): its latest open one with `XSRC` and the `TID`,
which is that of the writer's `DD`, or of its own while the writer has not issued. -/
def State.exportTarget (s : State) (g tid : Nat) : Option (Nat × Nat) :=
  match (s.runner.colls.filter fun c => c.xsrc && c.phase != .done && c.local_.any (fun x => x.g == g)
      && (match c.dd with
        | some d => imgTid d == tid
        | none => (s.mould g).collIssued.contains (tid, c.grp, c.cseq))).reverse with
  | c :: _ => some (c.grp, c.cseq)
  | [] => none

/-! ## Endings (R325, R330, R335, R392) -/

/-- Error response: nothing written, all ones posted. -/
def Coll.fail (c : Coll) (s : State) : State :=
  if c.phase = .done then s.dropColl c.grp c.cseq else c.finish s (BitVec.allOnes 64)

/-- `RUN_CTO.LIMIT` µs have passed since the first local issue. -/
def State.ctoPassed (s : State) (since : W64) : Bool := decide (since.toNat + 1000 * s.field Reg.RUN_CTO 31 0 ≤ s.cnt.toNat)

/-- The timeout of R330 and R335. -/
def State.collTimeout (s : State) (grp cseq : Nat) : State :=
  match s.findColl grp cseq with
  | some c =>
    if s.ctoPassed c.since ∧ (c.phase = .slots ∨ c.phase = .headers) then c.void s true else s
  | none => s

end Sys2Proof.Machine
end

