-- ==== Sys2Proof/Machine/Routing.lean ====
section
/-! DEFINITION. Expert routing (R62, R249 to R256, R339 to R345): selection, token skipping, gathers and scatters, and the
dispatch, return and combination of token rows. -/
namespace Sys2Proof.Machine

open Sys2Proof.Num

/-! ## Index and choice lists (R249) -/

/-- An operand of this device that holds an index or choice list: its entries are INT32 or UINT16 (R249). -/
def listOperand (s : State) (d : W512) : Option View :=
  match viewOf d with
  | some v => if v.layout != .sparse && (v.fmt == .int32 || v.fmt == .uint16) && v.dev == s.devAddr then some v else none
  | none => none

/-- The empty entry of a list format. -/
def emptyCode (f : Fmt) : Nat := if f = .uint16 then 0xFFFF else 0x80000000

/-- One entry: none where it is empty; a negative index is −1 or less. -/
def indexOf (f : Fmt) (c : Nat) : Option Int :=
  if c = emptyCode f then none else some (if f = .uint16 then (c : Int) else twos 32 c)

/-- One entry of a list: an operand that is no list reads as zeros (R82, R86, R454); it counts once, with its instruction. -/
def listEntry (s : State) (g : Nat) (d : W512) (i0 : Nat) (o : List Nat) : Option Int × Nat :=
  match listOperand s d with
  | some v =>
    let c := v.readCode s g i0 o
    (indexOf v.fmt c.1, c.2)
  | none => (some 0, 0)

/-- All entries of a list in logical order, and the violations of reading them. -/
def listEntries (s : State) (g : Nat) (d : W512) : List (Option Int) × Nat :=
  let ext := imgExts d
  let cs := (List.range (product (ext.drop 1))).flatMap fun r =>
    (List.range (ext.getD 0 1)).map fun i => listEntry s g d i (unravel (ext.drop 1) r)
  (cs.map (·.1), totalBy (·.2) cs + b2n (listOperand s d).isNone)

/-- Write raw codes of one run; entries outside the shape or in the term log count one each. -/
def View.putIndices (v : View) (s : State) (g : Nat) (o : List Nat) (codes : List (Nat × Nat)) : State × Nat :=
  let ok := codes.filter fun c => v.inShape c.1 o && !v.tlogHit s g c.1 o
  (if ok.isEmpty then s else v.putCodes s g o ok [] (ok.map fun c => (c.1, c.2 == 0)), codes.length - ok.length)

/-! ## `RSEL` and `TSKIP` (R251, R256) -/

/-- Candidates of one token: larger signed score first, ties to the lower expert. -/
def insScore (k : Nat × Val) : List (Nat × Val) → List (Nat × Val)
  | [] => [k]
  | q :: t => if Val.lt q.2 k.2 then k :: q :: t else q :: insScore k t

/-- The k best experts of one token's scores. -/
def selectExperts (k : Nat) (scores : List Val) : List (Nat × Val) :=
  ((scores.zipIdx.foldl (fun acc x => if x.1.isNan then acc else insScore (x.2, x.1) acc) []).take k)

/-- An element of a score, mask or gate operand; one that reads as zero counts once, with its instruction (R86). -/
def scoreOf (s : State) (g : Nat) (d : W512) (i0 : Nat) (o : List Nat) : Val × Nat :=
  match viewOf d with
  | some v => if voidOperand s d then (.zero, 0) else v.read s g i0 o
  | none => (.zero, 0)

/-- `RSEL`: the state and the posted count. -/
def runRsel (s : State) (g : Nat) (sc c gs : W512) (a : W64) : State × W64 :=
  let k := fld a 3 0
  if k = 0 ∨ 8 < k then (s.mcount g Reg.PAT_CNT_VIOL 1, 0)
  else
    let ext := imgExts sc
    let cv := match listOperand s c with
      | some v => if v.alias_ then none else some v
      | none => none
    let gv := if destOk s (viewOf gs) then viewOf gs else none
    let listy := match viewOf c with
      | some v => v.layout != .sparse && (v.fmt == .int32 || v.fmt == .uint16)
      | none => false
    let scored := match viewOf gs with
      | some v => v.layout != .sparse && v.fmt != .e8m0
      | none => false
    let pre := b2n (voidOperand s sc) + writeFaults s [(viewOf c, listy), (viewOf gs, scored)]
    let step (x : State × Nat × Nat) (t : Nat) : State × Nat × Nat :=
      let cells := (List.range (ext.getD 0 1)).map fun e => scoreOf s g sc e [t]
      let best := selectExperts k (cells.map (·.1))
      let viol := totalBy (·.2) cells
      let c1 : State × Nat × Nat := match cv with
        | some v =>
          let r := v.putIndices x.1 g [t] ((List.range k).map fun q => (q, match best[q]? with
            | some e => e.1
            | none => emptyCode v.fmt))
          (r.1, r.2, ((List.range best.length).filter fun q => v.inShape q [t] && !v.tlogHit x.1 g q [t]).length)
        | none => (x.1, 0, 0)
      let g1 : State × WStat := match gv with
        | some v => v.writeRun c1.1 g [t] ((List.range k).map fun q => (q, match best[q]? with
            | some e => e.2
            | none => Val.zero)) .rne (c1.1.rctx v.tid)
        | none => (c1.1, {})
      (g1.1, x.2.1 + viol + c1.2.1 + g1.2.viol, x.2.2 + c1.2.2)
    let r := (List.range (product (ext.drop 1))).foldl step (s, pre, 0)
    (r.1.mcount g Reg.PAT_CNT_VIOL r.2.1, BitVec.ofNat 64 r.2.2)

/-- `TSKIP`: the state and the number of tokens kept. -/
def runTskip (s : State) (g : Nat) (m i : W512) : State × W64 :=
  let cells : List (Val × Nat) := (List.range ((imgExts m).getD 0 1)).map fun t => scoreOf s g m t []
  let kept := (cells.zipIdx.filter fun x => !x.1.1.isZero).map (·.2)
  let viol := totalBy (·.2) cells + b2n (voidOperand s m)
  let v64 : W64 := BitVec.ofNat 64 kept.length
  match listOperand s i with
  | some v =>
    if v.alias_ then (s.mcount g Reg.PAT_CNT_VIOL (viol + 1), v64)
    else
      let r := v.runs.zipIdx.foldl (fun (a : State × Nat) o =>
        let x := v.putIndices a.1 g o.1 ((List.range (v.e 0)).map fun j =>
          (j, (kept[o.2 * v.e 0 + j]?).getD (emptyCode v.fmt)))
        (x.1, a.2 + x.2)) (s, 0)
      (r.1.mcount g Reg.PAT_CNT_VIOL (viol + r.2 + b2n (decide (v.count < kept.length))), v64)
  | none => (s.mcount g Reg.PAT_CNT_VIOL (viol + 1), v64)

/-! ## `GATHER` and `SCATTER` (R254, R255) -/

/-- Rows to write: destination row, and the source row or none for a row of zeros; with the violations of the list. -/
abbrev RowPlan := List (Nat × Option Nat) × Nat

def gatherPlan (idx : List (Option Int)) (rows srcRows _width : Nat) : RowPlan :=
  idx.zipIdx.foldl (fun (a : RowPlan) e => match e.1 with
    | none => a
    | some i =>
      if rows ≤ e.2 then (a.1, a.2 + 1)
      else if 0 ≤ i ∧ i < srcRows then (a.1 ++ [(e.2, some i.toNat)], a.2)
      else (a.1 ++ [(e.2, none)], a.2 + 1)) ([], 0)

/-- Of a repeated index only the entry with the highest r is written. A source row r at or beyond the source's extent reads as zero,
each element of it counted (R86). -/
def scatterPlan (idx : List (Option Int)) (rows srcRows width : Nat) : RowPlan :=
  let p := idx.zipIdx.foldl (fun (a : RowPlan) e => match e.1 with
    | none => a
    | some i =>
      if 0 ≤ i ∧ i < rows then
        let rest := a.1.filter fun x => x.1 ≠ i.toNat
        (rest ++ [(i.toNat, if e.2 < srcRows then some e.2 else none)], a.2)
      else (a.1, a.2 + 1)) ([], 0)
  (p.1, p.2 + width * (p.1.filter fun x => x.2.isNone).length)

/-- One row of a plan into run [r] of the destination, converted under R216 with RNE. -/
def planRow (s : State) (g : Nat) (vs : Option View) (vd : View) (r : Nat) (src : Option Nat) : State × WStat :=
  let zeros := vd.writeRun s g [r] ((List.range (vd.e 0)).map fun i => (i, Val.zero)) .rne (s.rctx vd.tid)
  match vs, src with
  | some v, some q =>
    if v.fmt = vd.fmt ∧ v.blk = vd.blk ∧ v.mx = vd.mx then copyRun s g v vd [q] [r]
    else
      let cells := (List.range (vd.e 0)).map fun i => (i, v.read s g i [q])
      let x := vd.writeRun s g [r] (cells.map fun c => (c.1, c.2.1)) .rne (s.rctx vd.tid)
      (x.1, x.2.add { viol := totalBy (fun c => c.2.2) cells })
  | _, _ => zeros

/-- The source rows of a `GATHER` or `SCATTER`: a void or sparse source reads as zeros; only a `GATHER` reads another device's
memory (R83, R254). -/
def rowSource (s : State) (remote : Bool) (src : W512) : Option View :=
  match viewOf src with
  | some v => if v.layout = .sparse ∨ (v.dev ≠ s.devAddr ∧ !remote) then none else some v
  | none => none

/-- The requests of a `GATHER` from a remote source: each distinct row once in each window of 4,096 entries; none for an empty or
violating entry (R254, R327). -/
def State.askRows (s : State) (v : View) (p : RowPlan) : State :=
  let ws := (p.1.map fun x => x.1 / 4096).eraseDups
  ws.foldl (fun s w =>
    (((p.1.filter fun x => x.1 / 4096 == w).filterMap (·.2)).eraseDups).foldl (fun s q => s.askRun v [q]) s) s

/-- `GATHER` and `SCATTER` share all but their plan, and that a `GATHER` may fetch. Rows of zeros, where nothing else is read, are not
written into E8M0 either (R33). -/
def runRows (s : State) (g : Nat) (dst src ilist : W512) (remote : Bool) (plan : List (Option Int) → Nat → Nat → Nat → RowPlan) : State :=
  let vs := rowSource s remote src
  let sext := imgExts src
  let idx := listEntries s g ilist
  let voids := b2n vs.isNone + b2n (listOperand s ilist).isNone
  match viewOf dst with
  | some vd =>
    let same := match vs with
      | some v => v.fmt == vd.fmt && v.blk == vd.blk && v.mx == vd.mx || convertible v.fmt vd.fmt
      | none => vd.fmt != .e8m0
    if vd.layout = .sparse ∨ vd.alias_ ∨ vd.dev ≠ s.devAddr then s.count Reg.RUN_CNT_VIOL (voids + 1)
    else if sext.getD 0 1 ≠ vd.e 0 ∨ !same then s.count Reg.RUN_CNT_VIOL 1
    else
      let p := plan idx.1 (vd.e 1) (sext.getD 1 1) (if vs.isSome then sext.getD 0 1 else 0)
      let r := p.1.foldl (fun (a : State × WStat) x =>
        let y := planRow a.1 g vs vd x.1 x.2
        (y.1, a.2.add y.2)) (match vs with
          | some v => s.askRows v p
          | none => s, {})
      (r.1.count Reg.RUN_CNT_VIOL (r.2.viol + p.2 + idx.2 + b2n vs.isNone)).count Reg.RUN_CNT_CLAMP r.2.clamps
  | none => s.count Reg.RUN_CNT_VIOL (voids + 1)

/-! ## Routing descriptors and expert tables (R252, R339) -/

/-- A routing descriptor with its table's header, checked (R252, R339). -/
structure RouteCtx where
  rseq : Nat
  grp : Nat
  etab : Nat
  kk : Nat
  renorm : Bool
  cap : Nat
  nexp : Nat
  rfmt : Nat
  rext : Nat
  members : List Nat

/-- Offset of word w of expert e of table t (R346). -/
def etabOff (t e w : Nat) : Nat := Reg.RUN_ETAB_ENT + 0x2000 * t + 32 * e + 8 * w
def State.expertDev (s : State) (t e : Nat) : Nat := fld (s.reg (etabOff t e 0)) 63 48

/-- The step that a descriptor describes; none where it voids its instruction. -/
def routeCtx (s : State) (de : List W64) (descOk : Bool) : Option RouteCtx :=
  let w0 := de.getD 0 0
  let t := fld w0 23 16
  let hdr := s.reg (Reg.RUN_ETAB_HDR + 0x2000 * t)
  let c : RouteCtx := ⟨fld w0 63 32, fld w0 31 24, t, fld w0 15 12, bitOf w0 11, fld (de.getD 1 0) 31 0, fld hdr 39 32,
    fld hdr 31 28, fld hdr 23 0, (s.groupMembers (fld w0 31 24)).getD []⟩
  if !descOk ∨ 16 ≤ t ∨ !c.members.contains s.devAddr ∨ c.kk = 0 ∨ 8 < c.kk ∨ c.cap = 0 ∨ c.nexp = 0 ∨ 128 < c.nexp then none
  else if (List.range c.nexp).any fun e => !c.members.contains (s.expertDev t e) then none
  else some c

/-- Width in bits of a format code; 8 for a reserved code. -/
def codeWidth (c : Nat) : Nat :=
  match Fmt.ofCode c with
  | some f => f.width
  | none => 8

/-- Landing slots of 16 B that one choice takes (R343). -/
def RouteCtx.unit (c : RouteCtx) : Nat := roundup64 (cdiv (c.rext * codeWidth c.rfmt) 8) / 16

/-- Element codes of one row as bytes, lowest bit first, and back. -/
def packCodes (w : Nat) (cs : List Nat) : List Byte :=
  leBytes (cdiv (cs.length * w) 8) (cs.foldr (fun c a => c % 2 ^ w + 2 ^ w * a) 0)
def unpackCodes (w n : Nat) (bs : List Byte) : List Nat :=
  let v := leNat bs
  (List.range n).map fun i => v / 2 ^ (w * i) % 2 ^ w

/-! ## `DISPATCH` (R253, R340 to R343) -/

def State.findStep (s : State) (rseq : Nat) : Option RouteStep := s.runner.steps.find? fun r => r.rseq == rseq
def State.putStep (s : State) (r : RouteStep) : State :=
  { s with runner := { s.runner with steps := s.runner.steps.map fun x => if x.rseq = r.rseq then r else x } }
def State.dropStep (s : State) (rseq : Nat) : State :=
  { s with runner := { s.runner with steps := s.runner.steps.filter fun x => x.rseq ≠ rseq } }

/-- The non-empty choices in visiting order, and the violations of the choice operand: an entry outside it, in the term log or of an
operand that is no list reads as zero, expert 0 (R86). -/
def choicesOf (s : State) (g : Nat) (c : W512) (kk nexp base : Nat) : List Choice × Nat :=
  (List.range ((imgExts c).getD 1 1)).foldl (fun (a : List Choice × Nat) t =>
    (List.range kk).foldl (fun (a : List Choice × Nat) q =>
      let r := listEntry s g c q [t]
      match r.1 with
      | none => a
      | some e =>
        if 0 ≤ e ∧ e < nexp then (a.1 ++ [⟨base + t, q, e.toNat, t, .waiting⟩], a.2 + r.2) else (a.1, a.2 + 1)) a)
    ([], b2n (listOperand s c).isNone)

/-- An entry of the drop ring (R401); with no room it is lost and counted (log entry 47). -/
def State.listDrop (s : State) (c : Choice) : State :=
  let b := (s.reg Reg.SVC_DROP_BASE).toNat
  let l := (s.reg Reg.SVC_DROP_LIMIT).toNat
  let h := (s.reg Reg.SVC_DROP_HEAD).toNat
  if b + h + 8 ≤ l ∧ b % 512 = 0 ∧ s.inRegion (b + h) 8 (fun _ => true) then
    (s.store 0 (b + h) (leBytes 8 (c.token % 2 ^ 32 + (c.expert * 2 ^ 24 + c.rank * 2 ^ 13) * 2 ^ 32))).setReg Reg.SVC_DROP_HEAD
      (BitVec.ofNat 64 (h + 8))
  else s.count Reg.SVC_DROP_LOST 1

/-- The arrival area of expert e as the `DENSE` tensor of R341, with X's format and scales; a void X has lost its format, and its
rows of zeros are bytes (log entry 38). -/
def RouteStep.area (r : RouteStep) (s : State) (e : Nat) : View :=
  let w0 := s.reg (etabOff r.etab e 0)
  let w1 := s.reg (etabOff r.etab e 1)
  let x := imgView ((Fmt.ofCode (imgFld r.x 0 63 60)).getD .int8) r.x
  { x with layout := .dense, zbm := false, dev := s.devAddr, base := fld w0 47 0, soff := fld w1 31 0, tid := 0, alias_ := false,
           ext := [x.e 0, r.cap, 1, 1, 1, 1], str := [fld w1 63 32, 0, 0, 0, 0], region := 0 }

def RouteStep.tagAddr (r : RouteStep) (s : State) (e slot : Nat) : Nat := fld (s.reg (etabOff r.etab e 2)) 47 0 + 8 * slot

/-- A region of memory holds [a, a + n). -/
def State.held (s : State) (a n : Nat) : Bool := n == 0 || s.inRegion a n fun _ => true

/-- An accepted row and its tag land in slot `slot` of expert e (R341): codes and scales bit for bit, a format narrower than a byte
packed from its lowest bit (log entry 38). -/
def RouteStep.land (r : RouteStep) (s : State) (e slot : Nat) (tag : RowTag) (codes : List Nat) (scales : List Byte) : State :=
  let ta := r.tagAddr s e slot
  let hi := tag.dev.toNat * 2 ^ 16 + tag.rank.toNat * 2 ^ 13
  let v := r.area s e
  if s.held (v.runAddr [slot]) (runLen v.fmt .dense v.gsize (v.e 0)) && s.held (v.scaleAddr [slot] 0) (srl (v.e 0) v.blk)
      && s.held ta 8 then
    ((s.store 0 (v.runAddr [slot]) (packCodes v.fmt.width (codes.take (v.e 0)))).store 0 (v.scaleAddr [slot] 0) scales).store 0 ta
      (leBytes 4 tag.token.toNat ++ leBytes 4 hi)
  else s.count Reg.RUN_CNT_VIOL 1

/-- Slots at or beyond the accepted count hold empty tags (R341). -/
def RouteStep.emptyTags (r : RouteStep) (s : State) (e accepted : Nat) : State :=
  (List.range (r.cap - accepted)).foldl (fun s i =>
    let ta := r.tagAddr s e (accepted + i)
    if s.held ta 8 then s.store 0 ta (leBytes 4 0x80000000 ++ leBytes 4 0x80000000) else s.count Reg.RUN_CNT_VIOL 1) s

/-- Counts of all members in, members in ascending order of `RB`, ties by address. -/
def RouteStep.order (r : RouteStep) : List (Nat × Nat × List Nat) :=
  r.counts.foldl (fun acc c =>
    let before := acc.takeWhile fun x => x.2.1 < c.2.1 || (x.2.1 == c.2.1 && x.1 < c.1)
    before ++ c :: acc.drop before.length) []

/-- Choices of expert e over the members of a list. -/
def countFor (e : Nat) (l : List (Nat × Nat × List Nat)) : Nat := totalBy (fun c => c.2.2.getD e 0) l

/-- This device's first slot at expert e. -/
def RouteStep.firstSlot (r : RouteStep) (me e : Nat) : Nat := countFor e (r.order.takeWhile fun c => c.1 != me)

/-- Slots accepted at expert e. -/
def RouteStep.accepted (r : RouteStep) (e : Nat) : Nat := min r.cap (countFor e r.counts)

/-- Hosted experts of the step's table. -/
def RouteStep.hosted (r : RouteStep) (s : State) : List Nat :=
  (List.range (fld (s.reg (Reg.RUN_ETAB_HDR + 0x2000 * r.etab)) 39 32)).filter fun e => s.expertDev r.etab e == s.devAddr

/-- Codes and scale bytes of row t of X, and the violations of reading it: zeros of an X that reads as zero. -/
def xRowData (s : State) (g : Nat) (x : W512) (t : Nat) : List Nat × List Byte × Nat :=
  let n := (imgExts x).getD 0 1
  let b := blkSize (imgFld x 0 53 51)
  let nb := if b = 0 then 0 else cdiv n b
  match viewOf x with
  | some v =>
    if voidOperand s x then (List.replicate n 0, List.replicate nb 0, 0)
    else
      let cs := (List.range n).map fun i => v.readCode s g i [t]
      (cs.map (·.1), (List.range nb).map fun b => if v.e 1 ≤ t then 0 else v.byte s g (v.scaleAddr [t] b), totalBy (·.2) cs)
  | none => (List.replicate n 0, List.replicate nb 0, 0)

/-- A choice of the send phase: sent to its slot, or dropped at its source. -/
def RouteStep.sendOne (r : RouteStep) (s : State) (slot : Nat) (c : Choice) : RouteStep × State :=
  let put (r : RouteStep) (st : ChoiceSt) : RouteStep :=
    { r with choices := r.choices.map fun x => if x.token = c.token ∧ x.rank = c.rank then { x with st := st } else x }
  if r.cap ≤ slot then
    let s := s.count Reg.RUN_CNT_DROP 1
    (put { r with drops := r.drops + 1 } .dropped, if s.modeBit 4 then s.listDrop c else s)
  else
    let d := xRowData s r.g r.x c.row
    let s := s.count Reg.RUN_CNT_VIOL d.2.2
    let dev := s.expertDev r.etab c.expert
    let tag : RowTag := ⟨BitVec.ofNat 32 c.token, BitVec.ofNat 16 s.devAddr, BitVec.ofNat 3 c.rank⟩
    let r := put r .sent
    if dev = s.devAddr then
      ({ r with arrivals := r.arrivals ++ [(c.expert, slot)] }, r.land s c.expert slot tag d.1 d.2.1)
    else
      let w := codeWidth (imgFld r.x 0 63 60)
      (r, s.send (.row r.rseq (BitVec.ofNat 16 dev) c.expert slot tag (packCodes w d.1) d.2.1))

/-- The send phase (R340 step 3). -/
def RouteStep.sendAll (r : RouteStep) (s : State) : RouteStep × State :=
  let me := s.devAddr
  let x := r.choices.foldl (fun (a : (RouteStep × State) × SMap Nat) c =>
    let n := SMap.get 0 a.2 c.expert
    (a.1.1.sendOne a.1.2 (r.firstSlot me c.expert + n) c, SMap.set 0 a.2 c.expert (n + 1))) (({ r with phase := .rows }, s), [])
  x.1

/-- Every expected arrival has been written. -/
def RouteStep.allIn (r : RouteStep) (s : State) : Bool :=
  (r.hosted s).all fun e => decide (r.accepted e ≤ (r.arrivals.filter fun a => a.1 == e).length)

/-- A message that this device has sent still waits for its packets to leave or to be acknowledged (R321). -/
def State.outstanding (s : State) (p : Nat → FabMsg → Bool) : Bool :=
  s.runner.out.zipIdx.any fun m => p m.2 m.1 && (decide (s.runner.txNext ≤ m.2) || s.runner.unacked.any fun u => u.msg == m.2)

/-- Rows of a step's `DISPATCH` are still to be acknowledged (R340). -/
def State.rowsOut (s : State) (rseq : Nat) : Bool := s.outstanding fun _ m => match m with
  | .row q _ _ _ _ _ _ => q == rseq
  | _ => false

/-- Move a step as far as what has arrived allows: the `DISPATCH` is done once every expected row is written and its own rows are
acknowledged (R340). -/
def State.advanceStep (s : State) (rseq : Nat) : State :=
  match s.findStep rseq with
  | none => s
  | some r =>
    let ms := (s.groupMembers r.grp).getD []
    let (r, s) := if r.phase = .counts ∧ ms.all (fun a => r.counts.any fun c => c.1 == a) then r.sendAll s else (r, s)
    let (r, s) := if r.phase = .rows && r.allIn s then
        ({ r with phase := .acks }, (r.hosted s).foldl (fun s e => r.emptyTags s e (r.accepted e)) s)
      else (r, s)
    s.putStep (if r.phase = .acks && !s.rowsOut rseq then { r with phase := .done } else r)

/-- A member's counts, a row for a hosted expert, or a returned row; kept until the step has issued here. -/
def State.routeMessage (s : State) (i : Instr) : State :=
  let keep (s : State) : State := { s with runner := { s.runner with early := s.runner.early ++ [i] } }
  match i with
  | .dispatchCount rseq dev base counts =>
    (match s.findStep rseq.toNat with
    | some r =>
      if r.phase ≠ .counts ∧ r.phase ≠ .space then s.count Reg.RUN_CNT_VIOL 1
      else if r.counts.any fun c => c.1 == dev.toNat then s.count Reg.RUN_CNT_VIOL 1
      else (s.putStep { r with counts := r.counts ++ [(dev.toNat, base.toNat, counts.map (·.toNat))] }).advanceStep rseq.toNat
    | none => keep s)
  | .dispatchRow rseq expert slot tag codes scales =>
    (match s.findStep rseq.toNat with
    | some r =>
      if r.phase = .counts ∨ r.phase = .space then keep s
      else if r.phase ≠ .rows ∨ s.expertDev r.etab expert.toNat ≠ s.devAddr ∨ r.accepted expert.toNat ≤ slot.toNat
          ∨ r.arrivals.contains (expert.toNat, slot.toNat) then s.count Reg.RUN_CNT_VIOL 1
      else
        let cs := unpackCodes (codeWidth (imgFld r.x 0 63 60)) ((imgExts r.x).getD 0 1) codes
        ((r.land s expert.toNat slot.toNat tag cs scales).putStep
          { r with arrivals := r.arrivals ++ [(expert.toNat, slot.toNat)] }).advanceStep rseq.toNat
    | none => keep s)
  | .returnRow rseq token rank codes =>
    (match s.findStep rseq.toNat with
    | some r =>
      match r.choices.find? fun c => c.token == token.toNat && c.rank == rank.toNat with
      | some c =>
        if c.st ≠ .sent then s.count Reg.RUN_CNT_VIOL 1
        else
          let hdr := s.reg (Reg.RUN_ETAB_HDR + 0x2000 * r.etab)
          let cs := unpackCodes (codeWidth (fld hdr 31 28)) (fld hdr 23 0) codes
          s.putStep { r with choices := r.choices.map fun x =>
            if x.token = c.token ∧ x.rank = c.rank then { x with st := .returned cs } else x }
      | none => s.count Reg.RUN_CNT_VIOL 1
    | none => s.count Reg.RUN_CNT_VIOL 1)
  | _ => s

/-- Routing step that a message names. -/
def routeKeyOf (i : Instr) : Option Nat :=
  match i with
  | .dispatchCount r _ _ _ => some r.toNat
  | .dispatchRow r _ _ _ _ _ => some r.toNat
  | _ => none

/-- Deliver the messages that came before this device could take them. -/
def State.replayRoute (s : State) (rseq : Nat) : State :=
  let l := s.runner.early.filter fun i => routeKeyOf i == some rseq
  let s := { s with runner := { s.runner with early := s.runner.early.filter fun i => routeKeyOf i != some rseq } }
  l.foldl (fun s i => s.routeMessage i) s

/-- The count phase (R340 step 2). -/
def RouteStep.sendCounts (r : RouteStep) (s : State) (nexp : Nat) : State :=
  let cs := (List.range nexp).map fun e => (r.choices.filter fun c => c.expert == e).length
  let r := { r with phase := .counts, counts := r.counts ++ [(s.devAddr, r.base, cs)] }
  let s := (s.putStep r).send (.counts r.rseq r.base cs)
  let s := (s.advanceStep r.rseq).replayRoute r.rseq
  s.replayRoute r.rseq

/-- A routing instruction at the head of its queue waits, or has retired with a value. -/
inductive RouteRes where
  | wait (s : State)
  | done (s : State) (v : W64)

/-- A member of the group cannot be reached (R325). -/
def State.groupLost (s : State) (grp : Nat) : Bool :=
  ((s.groupMembers grp).getD []).any fun d => s.runner.down.contains d

/-- A new step: it waits for its landing space, or sends its counts. -/
def RouteStep.begin (r : RouteStep) (s : State) (nexp : Nat) : RouteRes :=
  if r.unit * r.choices.length ≤ s.bufFree then
    let s := r.sendCounts s nexp
    match s.findStep r.rseq with
    | some r => if r.phase = .done then .done s (BitVec.ofNat 64 r.drops) else .wait s
    | none => .wait s
  else .wait s

/-- `DISPATCH` at the head of the runner queue. -/
def runDispatch (s : State) (g : Nat) (c x : W512) (b : W64) (de : List W64) (descOk : Bool) : RouteRes :=
  let bad (s : State) : RouteRes := .done (s.count Reg.RUN_CNT_VIOL 1) 0
  match routeCtx s de descOk with
  | none => bad s
  | some rc =>
    match s.findStep rc.rseq with
    | some r =>
      if r.g ≠ g then bad s
      else match r.phase with
        | .done => .done s (BitVec.ofNat 64 r.drops)
        | .void => .done (s.dropStep rc.rseq) 0
        | .error => .done s allOnes
        | .space => r.begin s rc.nexp
        | .acks =>
          let s := s.advanceStep rc.rseq
          (match s.findStep rc.rseq with
          | some r => if r.phase = .done then .done s (BitVec.ofNat 64 r.drops) else .wait s
          | none => .wait s)
        | _ => .wait s
    | none =>
      if s.groupLost rc.grp then .done s allOnes
      else
        let ch := choicesOf s g c rc.kk rc.nexp b.toNat
        let s := s.count Reg.RUN_CNT_VIOL (ch.2 + b2n (voidOperand s x))
        if s.field Reg.RUN_CMB_LIMIT 7 0 * 65536 < rc.unit * ch.1.length then bad s
        else
          let r : RouteStep :=
            { rseq := rc.rseq, grp := rc.grp, etab := rc.etab, cap := rc.cap, g := g, x := x, base := b.toNat, since := s.cnt,
              heat := s.heatNum, unit := rc.unit, phase := .space, choices := ch.1, counts := [], arrivals := [], drops := 0 }
          r.begin { s with runner := { s.runner with steps := s.runner.steps ++ [r] } } rc.nexp

/-! ## `RETURN` and `COMBINE` (R344, R345) -/

/-- One tagged row sent back to its source; a row operand that reads as zero gives zeros. -/
def returnOne (s : State) (g : Nat) (rc : RouteCtx) (v : Option View) (r lo hi : Nat) : State :=
  let cells : List (Nat × Nat) := (List.range rc.rext).map fun i => match v with
    | some v => v.readCode s g i [r]
    | none => (0, 0)
  let viol := match v with
    | some v => if v.e 1 ≤ r then 1 else totalBy (·.2) cells
    | none => 0
  let s := s.count Reg.RUN_CNT_VIOL viol
  let bytes := packCodes (codeWidth rc.rfmt) (cells.map (·.1))
  let dev := bits hi 31 16
  let rank : BitVec 3 := BitVec.ofNat 3 (bits hi 15 13)
  if dev = s.devAddr then s.routeMessage (.returnRow (BitVec.ofNat 32 rc.rseq) (BitVec.ofNat 32 lo) rank bytes)
  else s.send (.returned rc.rseq (BitVec.ofNat 16 dev) ⟨BitVec.ofNat 32 lo, BitVec.ofNat 16 dev, rank⟩ bytes)

/-- The tag words: an operand that is no INT32 tensor of this device reads as zeros. -/
def tagWords (s : State) (g : Nat) (tags : W512) : List (Nat × Nat) × Bool :=
  match viewOf tags with
  | some v =>
    if voidOperand s tags ∨ v.fmt ≠ .int32 then (List.replicate (product (imgExts tags)) (0, 0), false)
    else (v.runs.flatMap fun o => (List.range (v.e 0)).map fun i => v.readCode s g i o, true)
  | none => (List.replicate (product (imgExts tags)) (0, 0), false)

/-- The rows of a `RETURN` that mould g has sent are still to be acknowledged. -/
def State.returnsOut (s : State) (g : Nat) : Bool :=
  match s.runner.returning.find? fun x => x.1 == g with
  | some x => s.outstanding fun i m => decide (x.2.1 ≤ i ∧ i < x.2.2) && (match m with
      | .returned _ _ _ _ => true
      | _ => false)
  | none => false

/-- `RETURN` at the head of the runner queue: it sends its rows once, and retires when they are acknowledged (R344). -/
def runReturn (s : State) (g : Nat) (rows tags : W512) (de : List W64) (descOk : Bool) : RouteRes :=
  if s.runner.returning.any fun x => x.1 == g then
    if s.returnsOut g then .wait s
    else .done { s with runner := { s.runner with returning := s.runner.returning.filter fun x => x.1 ≠ g } } 0
  else match routeCtx s de descOk with
    | none => .done (s.count Reg.RUN_CNT_VIOL 1) 0
    | some rc =>
      if s.groupLost rc.grp then .done s allOnes
      else if imgFld rows 0 63 60 ≠ rc.rfmt ∨ (imgExts rows).getD 0 1 ≠ rc.rext then .done (s.count Reg.RUN_CNT_VIOL 1) 0
      else
        let v := if voidOperand s rows then none else viewOf rows
        let ws := tagWords s g tags
        let from_ := s.runner.out.length
        let s := s.count Reg.RUN_CNT_VIOL (b2n v.isNone + b2n (!ws.2) + totalBy (·.2) ws.1)
        let s := (List.range (ws.1.length / 2)).foldl (fun s r =>
          let lo := (ws.1.getD (2 * r) (0, 0)).1
          if lo = 0x80000000 then s else returnOne s g rc v r lo (ws.1.getD (2 * r + 1) (0, 0)).1) s
        if s.runner.out.length = from_ then .done s 0
        else .wait { s with runner := { s.runner with returning := s.runner.returning ++ [(g, from_, s.runner.out.length)] } }

/-- A product of R345 step 1. -/
def gateProduct (f : Fmt) (code : Nat) (w : W32) : W32 := Fp32.round false (Fp32.mulVal (decode f code) (ofF32 w))

/-- Gate weights of the surviving choices after R345 step 2. -/
def gateWeights (renorm : Bool) (ws : List (Nat × W32)) : List (Nat × W32) :=
  if !renorm then ws
  else
    let sigma := (RefSum.combine RefSum.plainCtx (RefSum.ofBits ws)).1
    ws.map fun w => (w.1, if (ofF32 sigma).isZero then 0 else Fp32.div w.2 sigma)

/-- One element of a token's row (R62, R345 step 3). -/
def combineElem (f : Fmt) (ws : List (Nat × W32)) (codes : List (Nat × List Nat)) (i : Nat) : W32 :=
  (RefSum.combine RefSum.plainCtx (RefSum.ofBits ((ws.zip codes).map fun x =>
    (x.1.1, gateProduct f (x.2.2.getD i 0) x.1.2)))).1

/-- The row of Y of one token whose choices have all come back, and the violations of its gate weights. -/
def combineRow (s : State) (g : Nat) (f : Fmt) (renorm : Bool) (n : Nat) (gates : W512) (t : Nat) (cs : List Choice) :
    List W32 × Nat :=
  let back := cs.filterMap fun c => match c.st with
    | .returned l => some (c.rank, l)
    | _ => none
  let gs := back.map fun c => (c.1, scoreOf s g gates c.1 [t])
  let ws := gateWeights renorm (gs.map fun x => (x.1, toF32 x.2.1))
  ((List.range n).map fun i => combineElem f ws back i, totalBy (fun x => x.2.2) gs)

/-- `COMBINE` at the head of the runner queue: every token of Y whose choices have all returned or been dropped is formed. -/
def runCombine (s : State) (g : Nat) (y gates : W512) (b : W64) (de : List W64) (descOk : Bool) : RouteRes :=
  match routeCtx s de descOk with
  | none => .done (s.count Reg.RUN_CNT_VIOL 1) 0
  | some rc =>
    let mine (s : State) : List Choice := match s.findStep rc.rseq with
      | some r => r.choices
      | none => []
    let lost : Bool := match s.findStep rc.rseq with
      | some r => r.phase == .error
      | none => false
    let ext := imgExts y
    let tokens := (List.range (ext.getD 1 1)).map fun t => (t, (mine s).filter fun c => c.token == b.toNat + t)
    let waits (cs : List Choice) : Bool := cs.any fun c => c.st == .waiting || c.st == .sent
    let pre := b2n (!destOk s (viewOf y)) + b2n (voidOperand s gates)
    let f := (Fmt.ofCode rc.rfmt).getD .e8m23
    let formed (t : Nat × List Choice) : Bool :=
      (t.2.any fun c => c.st == .combined) && t.2.all fun c => c.st == .combined || c.st == .dropped
    let waiting := tokens.any fun t => waits t.2
    let ready := tokens.filter fun t => !waits t.2 && !formed t && !(waiting && t.2.all fun c => c.st == .dropped)
    let r := ready.foldl (fun (a : State × WStat) (t : Nat × List Choice) =>
      let row : List W32 × Nat := combineRow a.1 g f rc.renorm (ext.getD 0 1) gates t.1 t.2
      let w : State × WStat := match viewOf y with
        | some v => if destOk a.1 (some v) then
            v.writeRun a.1 g [t.1] (row.1.zipIdx.map fun e => (e.2, ofF32 e.1)) .rne (a.1.rctx v.tid) else (a.1, {})
        | none => (a.1, {})
      let s := match w.1.findStep rc.rseq with
        | some st => w.1.putStep { st with choices := st.choices.map fun (c : Choice) =>
            if c.token = b.toNat + t.1 ∧ c.st ≠ .dropped then { c with st := .combined } else c }
        | none => w.1
      (s, (a.2.add w.2).add { viol := row.2 })) (s, {})
    let s := (r.1.count Reg.RUN_CNT_VIOL r.2.viol).count Reg.RUN_CNT_CLAMP r.2.clamps
    if lost then .done s allOnes
    else if waiting then .wait s else .done (s.count Reg.RUN_CNT_VIOL pre) 0

/-- A dispatch that waits for space or counts times out (R330, R335, R343). -/
def State.routeTimeout (s : State) (grp rseq : Nat) : State :=
  match s.findStep rseq with
  | some r =>
    if r.grp = grp ∧ (r.phase = .space ∨ r.phase = .counts) ∧ s.ctoPassed r.since then
      ((s.putStep { r with phase := .void }).count Reg.RUN_CNT_VIOL 1).count Reg.RUN_CNT_CTO 1
    else s
  | none => s

/-- A step that still has something to do here: its `DISPATCH` has not retired, or a choice has neither come back nor been dropped
(R347). -/
def RouteStep.isOpen (r : RouteStep) : Bool :=
  match r.phase with
  | .error | .void => false
  | .done => r.choices.any fun c => c.st != .dropped && c.st != .combined
  | _ => true

/-- Error response of a step (R325, R380): its `DISPATCH` or `COMBINE` completes with it. -/
def RouteStep.fail (r : RouteStep) (s : State) : State :=
  if r.isOpen then s.putStep { r with phase := .error } else s

/-- A routing instruction at the head of its queue. -/
def runRoute (s : State) (g : Nat) (kind : RouteKind) (d0 d1 d2 : W512) (a b : W64) (de : List W64) (descOk : Bool) : RouteRes :=
  match kind with
  | .rsel =>
    let r := runRsel s g d0 d1 d2 a
    .done r.1 r.2
  | .tskip =>
    let r := runTskip s g d0 d1
    .done r.1 r.2
  | .gather => .done (runRows s g d0 d1 d2 true gatherPlan) 0
  | .scatter => .done (runRows s g d0 d1 d2 false scatterPlan) 0
  | .dispatch => runDispatch s g d0 d1 b de descOk
  | .return_ => runReturn s g d0 d1 de descOk
  | .combine => runCombine s g d0 d1 b de descOk

end Sys2Proof.Machine
end

