-- ==== Sys2Proof/Machine/Blocks.lean ====
section
/-! DEFINITION. Service states of blocks (R394, R395, R405): which moulds, stacks and risers are in service, which work runs
as a guest and where (R388 to R390), and how a mould leaves and enters service. -/
namespace Sys2Proof.Machine

/-! ## Service states (R394, R405) -/

namespace Svc
abbrev inService := 0
abbrev draining := 1
abbrev out := 2
abbrev pendingEnable := 3
abbrev failed := 4
abbrev fused := 5
abbrev loading := 6
end Svc

def State.mstate (s : State) (g : Nat) : Nat := s.field (mctlOff g) 6 4
def State.setMstate (s : State) (g v : Nat) : State := s.setField (mctlOff g) 6 4 v
def State.sstate (s : State) (k : Nat) : Nat := s.field (sctlOff k) 6 4
def State.setSstate (s : State) (k v : Nat) : State := s.setField (sctlOff k) 6 4 v

/-- A mould is in service: also while it drains, and while an enable written before the drain ended is pending (R395, R399);
a mould that waits for the next launch is not. -/
def State.serving (s : State) (g : Nat) : Bool :=
  decide (g < 256) && (s.mstate g == Svc.inService || s.mstate g == Svc.draining
    || (s.mstate g == Svc.pendingEnable && (s.mould g).running))

/-- Moulds in service, ascending. -/
def State.servingList (s : State) : List Nat := (List.range 256).filter fun g => s.serving g

/-- A stack is in service. -/
def State.stackServing (s : State) (k : Nat) : Bool :=
  s.sstate k == Svc.inService || s.sstate k == Svc.draining

/-- A riser is in service and not in fall-back (R397: it is out with its stack; R304). -/
def State.riserServing (s : State) (r : Nat) : Bool := s.stackServing r && !(s.riser r).failed

/-! ## Stacks (R17, R267, R270, R386) -/

/-- Stacks that a region's footprint uses (R267). -/
def State.rgnStacks (s : State) (n : Nat) : List Nat :=
  let pl := s.reg (rgnOff Reg.MEM_RGN_PLACE n)
  if fld pl 63 62 = 1 ∨ fld pl 63 62 = 2 then [fld pl 58 56] else List.range 8

/-- `hbm_place` (R270): stack, pseudo-channel and byte offset there, of local address a in a region with this base and placement. -/
def hbmPlace (base : Nat) (pl : W64) (a : Nat) : Nat × Nat × Nat :=
  let r := a - base
  let g := r / 512
  let o := 512 * fld pl 21 0
  if fld pl 63 62 = 1 ∨ fld pl 63 62 = 2 then (fld pl 58 56, g % 64 ^^^ g / 64 % 64, o + 512 * (g / 64) + r % 512)
  else
    let ch := g % 512 ^^^ g / 512 % 512
    (ch % 8, ch / 8, o + 512 * (g / 512) + r % 512)

/-- Where `Mem` keeps a place. -/
def placeKey (p : Nat × Nat × Nat) : Nat := placeStart + (64 * p.1 + p.2.1) * 0x60000000 + p.2.2

/-- The local address of [base, limit) that a place backs, if any: `hbm_place` backwards, for its XOR is its own inverse. -/
def placeLocal (base limit : Nat) (pl : W64) (k pc off : Nat) : Option Nat :=
  let o := 512 * fld pl 21 0
  let row := (off - o) / 512
  let single := fld pl 63 62 == 1 || fld pl 63 62 == 2
  let g := if single then 64 * row + (pc ^^^ row % 64) else 512 * row + ((8 * pc + k) ^^^ row % 512)
  let a := base + 512 * g + (off - o) % 512
  if off < o ∨ limit ≤ a ∨ (single ∧ k ≠ fld pl 58 56) then none else some a

def keyLocal (base limit : Nat) (pl : W64) (x : Nat) : Option Nat :=
  if x < placeStart then none
  else
    let n := (x - placeStart) / 0x60000000
    placeLocal base limit pl (n / 64) (n % 64) ((x - placeStart) % 0x60000000)

/-- The bytes of a region leave its local addresses for their places: nothing clears them (R268). -/
def Mem.toPlaces (m : Mem) (base limit : Nat) (pl : W64) : Mem :=
  (m.cells.filter fun c => decide (base ≤ c.1 ∧ c.1 < limit)).foldl (fun m c => m.put (placeKey (hbmPlace base pl c.1)) c.2)
    { m with cells := m.cells.filter fun c => ¬(base ≤ c.1 ∧ c.1 < limit) }

/-- The bytes at the places of a region come under its local addresses; places that nothing has written hold no defined value. -/
def Mem.fromPlaces (m : Mem) (base limit : Nat) (pl : W64) (epoch : Nat) : Mem :=
  (m.cells.filterMap fun c => (keyLocal base limit pl c.1).map fun a => (a, c.2)).foldl (fun m c => m.put c.1 c.2)
    ((Mem.mk (m.cells.filter fun c => (keyLocal base limit pl c.1).isNone) m.undef).lose base limit epoch)

/-- The stack that holds an HBM address (R270). -/
def State.stackOf (s : State) (a : Nat) : Nat :=
  match s.regionAt a with
  | some n => (hbmPlace (s.rgnBase n) (s.reg (rgnOff Reg.MEM_RGN_PLACE n)) a).1
  | none => 0

/-- A stack is fenced or being reset, so its wrapper answers with error responses (R17, R386). -/
def State.stackErrs (s : State) (k : Nat) : Bool := s.sstate k == Svc.failed || s.sstate k == Svc.loading

/-- An access to a local address is answered with an error response. -/
def State.addrErrs (s : State) (a : Nat) : Bool :=
  windowOf a == some .hbm && (s.regionAt a).isSome && s.stackErrs (s.stackOf a)

/-! ## Guests (R388 to R390, R403) -/

/-- The mould that runs index g's work (`HOSTV`, `HOST`). -/
def State.hostOf (s : State) (g : Nat) : Option Nat :=
  if bitOf (s.reg (mctlOff g)) 48 then some (s.field (mctlOff g) 47 40) else none

def State.setHost (s : State) (g : Nat) (h : Option Nat) : State :=
  s.setField (mctlOff g) 48 40 (match h with
    | some t => 256 + t
    | none => 0)

/-- Guests that mould t carries, ascending. -/
def State.carried (s : State) (t : Nat) : List Nat := (List.range 256).filter fun g => s.hostOf g == some t

/-- The work of index g waits for a carrier. -/
def State.orphan (s : State) (g : Nat) : State :=
  let s := (s.setHost g none).updMould g fun m => { m with stopped := true }
  { s with heats := { s.heats with guests := s.heats.guests.filter (fun e => e.1 ≠ g) ++ [(g, none)] } }

/-- Index g's work is no longer a guest. -/
def State.unguest (s : State) (g : Nat) : State :=
  { s.setHost g none with heats := { s.heats with guests := s.heats.guests.filter fun e => e.1 ≠ g } }

/-- The indices whose work runs in a heat: moulds in service, guests, and work that waits for a carrier. -/
def State.working (s : State) : List Nat :=
  (List.range 256).filter fun g => s.serving g || (s.hostOf g).isSome || s.heats.guests.any fun e => e.1 == g

/-- The index whose context mould t runs now: its own or a guest's (R389). -/
def State.occupant (s : State) (t : Nat) : Nat :=
  match (s.carried t).find? fun g => !(s.mould g).stopped with
  | some g => g
  | none => t

/-- A mould goes out of service: its own work and the guests that it carried wait for carriers. -/
def State.goOut (s : State) (g : Nat) : State :=
  let gs := g :: s.carried g
  gs.foldl State.orphan ((s.setMstate g Svc.out).updMould g fun m => { m with running := false, stopped := true })

/-- A mould retires `HEND`: a drain ends; an enable that is pending keeps it in service (R395, R399). -/
def State.drainEnd (s : State) (g : Nat) : State :=
  if s.mstate g = Svc.draining then s.goOut g
  else if s.mstate g = Svc.pendingEnable && (s.mould g).running then s.setMstate g Svc.inService
  else s

/-- A guest starts from the checkpoint of its index with its stores zero, or from the loaded image where there is none
(R388, R389); its configuration registers are the index's own. -/
def Mould.restore (m : Mould) : Mould :=
  match m.ckpt with
  | some c =>
    { Mould.reset with
      x := c.x, p := c.p, d := c.d, s := c.s, producers := c.producers, pc := c.pc, tokIssued := c.tokIssued,
      tokSignalled := c.tokSignalled, tokMore := c.tokMore, dmem := c.dmem, ep := c.ep, arrivals := c.arrivals, launched := c.launched,
      digests := m.digests.take c.digs, oldDigests := m.oldDigests ++ m.digests.drop c.digs, imem := m.imem,
      loaded := m.loaded, inj := m.inj, retries := m.retries, ser := m.ser, collIssued := m.collIssued,
      ckpt := some c, running := true,
      regs := ((c.counts.foldl (fun (n : Mould) e => n.setReg e.1 e.2) m).setReg Reg.MID_HEAT_STATE
        (BitVec.ofNat 64 c.heatState)).regs }
  | none => { Mould.reset with imem := m.loaded.getD m.imem, launched := m.launched, running := true }

/-! ## Captured images -/

/-- The descriptor images that a captured instruction holds (R74). -/
def Work.images (w : Work) : List W512 :=
  match w with
  | .product _ _ dw dout df _ _ _ => [dw, dout, df]
  | .accwr _ dout df _ _ => [dout, df]
  | .accld _ dw _ => [dw]
  | .tbload _ da _ _ => [da]
  | .compact _ d _ _ _ _ _ => [d]
  | .prune _ d q _ _ _ _ => [d, q]
  | .grow _ d l _ _ _ _ _ _ _ => [d, l]
  | .move _ dd da => [dd, da]
  | .mfill _ dd _ => [dd]
  | .digest da _ _ _ => [da]
  | .epload _ _ => []
  | .vrun _ _ imgs _ _ _ _ => imgs
  | .coll _ _ ds dd _ _ _ _ => [ds, dd]
  | .route _ _ a b c _ _ _ _ _ => [a, b, c]
  | .rupd _ dg dw _ _ _ _ => [dg, dw]
  | .rprog _ _ _ _ => []
  | .rfetch dd da _ _ => [dd, da]
  | .raudit dw _ _ => [dw]

/-- Change every image that a captured instruction holds. -/
def Work.mapImages (f : W512 → W512) (w : Work) : Work :=
  match w with
  | .product k o dw dout df a b c => .product k o (f dw) (f dout) (f df) a b c
  | .accwr o dout df b c => .accwr o (f dout) (f df) b c
  | .accld o dw b => .accld o (f dw) b
  | .tbload o da a b => .tbload o (f da) a b
  | .compact o d t p ok n ph => .compact o (f d) t p ok n ph
  | .prune o d q t k h n => .prune o (f d) (f q) t k h n
  | .grow o d l t k tm p ok h n => .grow o (f d) (f l) t k tm p ok h n
  | .move o dd da => .move o (f dd) (f da)
  | .mfill o dd a => .mfill o (f dd) a
  | .digest da a r l => .digest (f da) a r l
  | .vrun o m imgs ks q g n => .vrun o m (imgs.map f) ks q g n
  | .coll k o ds dd de ok n r => .coll k o (f ds) (f dd) de ok n r
  | .route k o a b c x y de ok n => .route k o (f a) (f b) (f c) x y de ok n
  | .rupd o dg dw ks a af n => .rupd o (f dg) (f dw) ks a af n
  | .rfetch dd da k n => .rfetch (f dd) (f da) k n
  | .raudit dw k n => .raudit (f dw) k n
  | w => w

end Sys2Proof.Machine
end

