-- ==== Sys2Proof/Machine/Control.lean ====
section
/-! DEFINITION. Predicates, branches, summary reads, data memory, register space and operand-cache loads of the pair
(R169, R175, R201, R206 to R210). -/
namespace Sys2Proof.Machine

/-- The instruction at which the pair of index g stands: the word of its instruction memory at its PC, decoded (R167, R168,
R198, R201). Words that the loaded image does not hold are zero, and a zero word is a reserved one. -/
def State.nextInstr (s : State) (g : Nat) : Instr :=
  decodeMoarax (BitVec.ofNat 8 g) (SMap.get 0 (s.mould g).imem (s.mould g).pc.toNat)

/-- The pair waits: the PC stays at the waiting instruction. -/
def Mould.hold (m : Mould) (w : PairWait) : Mould := { m with wait := w, pc := m.pc - 1 }
/-- The waiting instruction retires. -/
def Mould.release (m : Mould) : Mould := { m with wait := .none, pc := m.pc + 1 }

/-- pd ← `COND`(a, b); a reserved code gives 0 and is counted once (R206). -/
def Mould.psetCond (m : Mould) (pd c : Nat) (a b : W64) : Mould :=
  (m.setP pd (condTrue c a b)).count Reg.CTL_CNT_VIOL (condReserved c)

def execPset (h : Hdr) (pd : BitVec 3) (ra rb : BitVec 5) (cond : BitVec 4) (s : State) : Res :=
  .next (pairLocal h s fun m => m.psetCond pd.toNat cond.toNat (m.getX ra.toNat) (m.getX rb.toNat))

def execPseti (h : Hdr) (pd : BitVec 3) (ra : BitVec 5) (cond : BitVec 4) (imm : BitVec 32) (s : State) : Res :=
  .next (pairLocal h s fun m => m.psetCond pd.toNat cond.toNat (m.getX ra.toNat) (imm.signExtend 64))

/-- pd ← bit (2·pa + pb) of `TT` (R207). -/
def execPlog (h : Hdr) (pd pa pb : BitVec 3) (tt : BitVec 4) (s : State) : Res :=
  .next (pairLocal h s fun m =>
    m.setP pd.toNat (tt.getLsbD (2 * b2n (m.getP pa.toNat) + b2n (m.getP pb.toNat))))

def execBr (h : Hdr) (target : BitVec 13) (s : State) : Res :=
  .next (pairLocal h s fun m => { m with pc := target })

/-- rd ← PC + 1, then PC ← `TARGET`: the PC of `m` already stands past the instruction. -/
def execJal (h : Hdr) (rd : BitVec 5) (target : BitVec 13) (s : State) : Res :=
  .next (pairLocal h s fun m => { m.setX rd.toNat (m.pc.setWidth 64) with pc := target })

/-- PC ← a[12:0]; a value with higher bits set still branches and is counted once (R208). -/
def execJr (h : Hdr) (ra : BitVec 5) (s : State) : Res :=
  .next (pairLocal h s fun m =>
    let a := m.getX ra.toNat
    { m.count Reg.CTL_CNT_VIOL (b2n (a >>> 13 != 0)) with pc := a.setWidth 13 })

/-- sk is pending: a producer has issued and not posted (R175). -/
def Mould.pendingSum (m : Mould) (k : Nat) : Bool := m.producers.any fun p => p.k == k
def Mould.getS (m : Mould) (k : Nat) : W64 := SMap.get 0 m.s k

/-- `BSUM` resolves on the value of sk: PC ← `TARGET` if `COND`(sk, a); a reserved code does not branch and counts. -/
def Mould.bsumResolve (m : Mould) (k c : Nat) (a : W64) (target : BitVec 13) : Mould :=
  let m' := m.count Reg.CTL_CNT_VIOL (condReserved c)
  if condTrue c (m.getS k) a then { m' with pc := target } else m'

def execBsum (h : Hdr) (sk : BitVec 3) (cond : BitVec 4) (ra : BitVec 5) (target : BitVec 13) (s : State) : Res :=
  .next (pairLocal h s fun m =>
    let a := m.getX ra.toNat
    if m.pendingSum sk.toNat then m.hold (.sumBranch sk.toNat cond.toNat a target)
    else m.bsumResolve sk.toNat cond.toNat a target)

def execSget (h : Hdr) (rd : BitVec 5) (sk : BitVec 3) (s : State) : Res :=
  .next (pairLocal h s fun m =>
    if m.pendingSum sk.toNat then m.hold (.sumGet sk.toNat rd) else m.setX rd.toNat (m.getS sk.toNat))

/-- The latest producer of sk, retired with its value, posts it; reads that wait for it are released (R175). -/
def postSummary (m : Mould) (k : Nat) : Mould :=
  match m.producers.find? (fun p => p.k == k) with
  | some ⟨_, _, some v⟩ =>
    let m := { m with producers := m.producers.filter (fun p => p.k ≠ k), s := SMap.set 0 m.s k v }
    match m.wait with
    | .sumGet k' rd => if k' = k then m.release.setX rd.toNat v else m
    | .sumBranch k' c a t => if k' = k then m.release.bsumResolve k c a t else m
    | _ => m
  | _ => m

def execSummaryPost (g : BitVec 8) (sk : BitVec 3) (s : State) : Res :=
  .next (s.updMould g.toNat fun m => postSummary m sk.toNat)

/-- A reserved `MAJ` or `MIN` retires with no effect and is counted once (R201). -/
def execReservedOpcode (h : Hdr) (s : State) : Res :=
  .next (pairLocal { h with rsv := false } s fun m => m.count Reg.CTL_CNT_VIOL 1)

/-! ### Data memory (R169, R209) -/

/-- Address of class 0x04: a + the sign-extended `IMM32`, as a u64. -/
def memAddr (o : ImmOps) (m : Mould) : Nat := (m.getX o.ra.toNat + o.imm.signExtend 64).toNat

/-- An access of n bytes at a data address is aligned and inside 64 KiB. -/
def dmOk (a n : Nat) : Bool := decide (a % n = 0 ∧ a + n ≤ 0x10000)

/-- Load n bytes; a wrong access loads 0 and is counted once. -/
def loadStep (h : Hdr) (o : ImmOps) (n : Nat) (signed : Bool) (s : State) : State :=
  pairLocal h s fun m =>
    let a := memAddr o m
    if dmOk a n then
      let v : W64 := BitVec.ofNat 64 (m.dmem.word a n)
      m.setX o.rd.toNat (if signed then sext (8 * n) v else v)
    else (m.setX o.rd.toNat 0).count Reg.CTL_CNT_VIOL 1

/-- Store the low n bytes of rd; a wrong access stores nothing and is counted once. -/
def storeStep (h : Hdr) (o : ImmOps) (n : Nat) (s : State) : State :=
  pairLocal h s fun m =>
    let a := memAddr o m
    if dmOk a n then { m with dmem := m.dmem.puts a (leBytes n (m.getX o.rd.toNat).toNat) }
    else m.count Reg.CTL_CNT_VIOL 1

def execLdb (h : Hdr) (o : ImmOps) (s : State) : Res := .next (loadStep h o 1 true s)
def execLdbu (h : Hdr) (o : ImmOps) (s : State) : Res := .next (loadStep h o 1 false s)
def execLdh (h : Hdr) (o : ImmOps) (s : State) : Res := .next (loadStep h o 2 true s)
def execLdhu (h : Hdr) (o : ImmOps) (s : State) : Res := .next (loadStep h o 2 false s)
def execLdw (h : Hdr) (o : ImmOps) (s : State) : Res := .next (loadStep h o 4 true s)
def execLdwu (h : Hdr) (o : ImmOps) (s : State) : Res := .next (loadStep h o 4 false s)
def execLdd (h : Hdr) (o : ImmOps) (s : State) : Res := .next (loadStep h o 8 false s)
def execStb (h : Hdr) (o : ImmOps) (s : State) : Res := .next (storeStep h o 1 s)
def execSth (h : Hdr) (o : ImmOps) (s : State) : Res := .next (storeStep h o 2 s)
def execStw (h : Hdr) (o : ImmOps) (s : State) : Res := .next (storeStep h o 4 s)
def execStd (h : Hdr) (o : ImmOps) (s : State) : Res := .next (storeStep h o 8 s)

/-! ### Register space and operand cache (R209, R210, R263) -/

/-- An address of the mould register space. -/
def mrOk (a : Nat) : Bool := decide (a % 8 = 0 ∧ a < 0x1000)

def execMrld (h : Hdr) (o : ImmOps) (s : State) : Res :=
  .next (pairStep h s fun s =>
    let g := h.m.toNat
    let a := memAddr o (s.mould g)
    if mrOk a then s.updMould g fun m => m.setX o.rd.toNat (mouldView s g a)
    else s.updMould g fun m => (m.setX o.rd.toNat 0).count Reg.CTL_CNT_VIOL 1)

def execMrst (h : Hdr) (o : ImmOps) (s : State) : Res :=
  .next (pairStep h s fun s =>
    let g := h.m.toNat
    let a := memAddr o (s.mould g)
    if mrOk a then mouldWrite s g a ((s.mould g).getX o.rd.toNat)
    else s.mcount g Reg.CTL_CNT_VIOL 1)

/-- `LDOC` may read here: aligned, inside the operand cache, outside the term log (R209, R263). -/
def ldocOk (m : Mould) (a : Nat) : Bool := decide (a % 8 = 0 ∧ a ≤ ocSize - 8) && !m.inTlog a 8

def execLdoc (h : Hdr) (o : ImmOps) (s : State) : Res :=
  .next (pairLocal h s fun m =>
    let a := memAddr o m
    if ldocOk m a then m.setX o.rd.toNat (BitVec.ofNat 64 (m.ocache.word a 8))
    else (m.setX o.rd.toNat 0).count Reg.CTL_CNT_VIOL 1)

/-! ### Register writes that have a row of their own (R129, R196) -/

def execVecCfgWrite (g : BitVec 8) (v : W64) (s : State) : Res := .next (mouldWrite s g.toNat Reg.VEC_CFG v)

/-- A pending enable takes effect when the vector queue and the finished-tile queue are empty (R196). -/
def execFtqEnableEffect (g : BitVec 8) (s : State) : Res :=
  .next (s.updMould g.toNat fun m => if m.ftqPend then ftqEnWrite m true else m)

def execMengCfgWrite (g : BitVec 8) (v : W64) (s : State) : Res := .next (mouldWrite s g.toNat Reg.MENG_CFG v)

end Sys2Proof.Machine
end

