-- ==== Sys2Proof/Machine/Sync.lean ====
section
/-! DEFINITION. What the pair and the crucible sequencer do at a suspension point: checkpoints (R387), barrier arrivals
(R222, R381), and the waits that end by themselves when queues empty (`HEND`, `CHKST`). -/
namespace Sys2Proof.Machine

/-- The mould's per-heat counts (R127, R162, R193, R211): cleared when each heat starts. -/
def mouldHeatCounts : List Nat :=
  [Reg.CTL_CNT_VIOL, Reg.VEC_CNT_VIOL, Reg.VEC_CNT_CLAMP, Reg.MENG_CNT_CAPOVF, Reg.MENG_CNT_OVFREC, Reg.MENG_CNT_CLAMP,
   Reg.MENG_CNT_VIOL, Reg.PAT_CNT_PRUNED, Reg.PAT_CNT_GROWN, Reg.PAT_CNT_COMMIT, Reg.PAT_CNT_PASSED, Reg.PAT_CNT_NAN,
   Reg.PAT_CNT_DEFER, Reg.PAT_CNT_VIOL, Reg.MOVQ_CNT_CLAMP, Reg.MOVQ_CNT_VIOL]

/-- The registers that a checkpoint keeps (R387). -/
def ckptRegs : List Nat := mouldHeatCounts ++ [Reg.MENG_SAT, Reg.MENG_FLAGS_STICKY]

/-- The checkpoint of a mould as it stands (R387). -/
def Mould.snapshot (m : Mould) : Ckpt :=
  { x := m.x, p := m.p, d := m.d, s := m.s, producers := m.producers, pc := m.pc,
    heatState := (m.reg Reg.MID_HEAT_STATE).toNat, tokIssued := m.tokIssued, tokSignalled := m.tokSignalled, tokMore := m.tokMore,
    dmem := m.dmem, ep := m.ep, counts := ckptRegs.map fun o => (o, m.reg o), arrivals := m.arrivals,
    launched := m.launched, digs := m.digests.length,
    num := match m.ckpt with
      | some c => c.num + 1
      | none => 1 }

/-- Capture a checkpoint. -/
def Mould.capture (m : Mould) : Mould := { m with ckpt := some m.snapshot }

/-- All six queues are empty: every instruction issued has retired. -/
def Mould.drained (m : Mould) : Bool := (List.range 6).all fun q => (m.queue q).isEmpty

/-- No product, move or riser command is outstanding (R227). -/
def Mould.checked (m : Mould) : Bool :=
  [0, 3, 5].all fun q => (m.queue q).all fun e => match e with
    | .work _ _ => false
    | _ => true

/-! ## Barriers -/

/-- Crucible of a barrier: the mould's own in crucible scope, 0 in device scope. -/
def barCrucible (device : Bool) (g : Nat) : Nat := if device then 0 else g / 64
/-- Key of a barrier in a mould's count of arrivals. -/
def barKey (device : Bool) (bid : Nat) : Nat := 16 * b2n device + bid
/-- Largest participant count. -/
def barMax (device : Bool) : Nat := if device then 256 else 64

def Barrier.is (b : Barrier) (device : Bool) (c bid : Nat) : Bool := b.device == device && b.crucible == c && b.bid == bid

def State.getBarrier (s : State) (device : Bool) (c bid : Nat) : Barrier :=
  match s.barriers.find? (fun b => b.is device c bid) with
  | some b => b
  | none => ⟨device, c, bid, 0, [], 0, [], []⟩

def State.putBarrier (s : State) (b : Barrier) : State :=
  { s with barriers := b :: s.barriers.filter fun x => !x.is b.device b.crucible b.bid }

/-- A new arrival of index g with its count: the barrier after it, and whether the count is a violation. -/
def Barrier.arrive (b : Barrier) (g n : Nat) : Barrier × Bool :=
  let first := b.arrived.isEmpty
  let count := if first then n else b.count
  let bad := n == 0 || decide (barMax b.device < n) || (!first && n != b.count)
  let b := { b with count := count, arrived := b.arrived ++ [g], taken := SMap.set 0 b.taken g (SMap.get 0 b.taken g + 1) }
  (if count ≤ b.arrived.length then
    { b with arrived := [], generation := b.generation + 1, done := b.done ++ b.arrived }
  else b, bad)

/-- A pair whose earlier work has retired arrives (R222, R387): the checkpoint is captured, then the arrival counted; a
repeat of a re-executed index is recognised and not counted again (R381). -/
def barrierArrive (s : State) (g : Nat) (device : Bool) (bid : Nat) (cnt : W64) : State :=
  let m := (s.mould g).capture
  let k := barKey device bid
  let n := SMap.get 0 m.arrivals k
  let m : Mould := { m with arrivals := SMap.set 0 m.arrivals k (n + 1), wait := .barrier device bid cnt true }
  let b := s.getBarrier device (barCrucible device g) bid
  if n < SMap.get 0 b.taken g then
    s.setMould g (if b.arrived.contains g || b.done.contains g then m else m.release)
  else
    let r := b.arrive g cnt.toNat
    (s.setMould g (m.count Reg.CTL_CNT_VIOL (b2n r.2))).putBarrier r.1

/-- The release that follows the last arrival of a generation. -/
def barrierRelease (s : State) (device : Bool) (c bid : Nat) : State :=
  let b := s.getBarrier device c bid
  let s := b.done.foldl (fun s g => s.updMould g fun m => match m.wait with
    | .barrier dv bd _ true => if dv = device ∧ bd = bid then m.release else m
    | _ => m) s
  if b.done.isEmpty then s else s.putBarrier { b with done := [] }

/-! ## Waits that end when queues empty -/

/-- `HEND` retires: the state becomes `ENDED` and a checkpoint is captured (R223, R387). -/
def Mould.endHeat (m : Mould) : Mould := (m.release.setReg Reg.MID_HEAT_STATE 2).capture

/-- A pair that waits for its own queues goes on when they allow. -/
def pairReady (s : State) (g : Nat) : State :=
  let m := s.mould g
  if m.stopped then s
  else match m.wait with
    | .hend => if m.drained then (s.setMould g m.endHeat).drainEnd g else s
    | .chkst rd => if m.checked then s.setMould g (m.release.setX rd.toNat (BitVec.ofNat 64 m.retries)) else s
    | .barrier dv bid cnt false => if m.drained then barrierArrive s g dv bid cnt else s
    | _ => s

/-! ## The instructions -/

/-- `CNT` (R224): the system counter. -/
def execCnt (h : Hdr) (rd : BitVec 5) (s : State) : Res := .next (pairLocal h s fun m => m.setX rd.toNat s.cnt)

/-- `HWAIT` (R223): rd ← the heat number, at once in `RUNNING`, else when the next heat launches here. -/
def execHwait (h : Hdr) (rd : BitVec 5) (s : State) : Res :=
  .next (pairStep h s fun s =>
    let g := h.m.toNat
    let m := s.mould g
    if m.reg Reg.MID_HEAT_STATE = 1 then s.setMould g (m.setX rd.toNat (m.reg Reg.MID_HEAT))
    else match m.launched with
      | some n => (s.takeLaunch g n).updMould g fun m => m.setX rd.toNat (BitVec.ofNat 64 n)
      | none => s.setMould g (m.hold (.hwait rd)))

/-- `HEND` (R223). -/
def execHend (h : Hdr) (s : State) : Res :=
  .next (pairReady (pairLocal h s fun m => m.hold .hend) h.m.toNat)

/-- Queues named in `QMASK` are empty. -/
def Mould.fenceDone (m : Mould) (mask : BitVec 6) : Bool :=
  (List.range 6).all fun q => !mask.getLsbD q || (m.queue q).isEmpty

/-- `FENCE` (R221): with nothing outstanding it retires. -/
def execFence (h : Hdr) (qmask : BitVec 6) (s : State) : Res :=
  .next (pairHeat h (.fence h qmask) s fun s => s.updMould h.m.toNat fun m =>
    if m.fenceDone qmask then m else m.hold (.fence qmask))

/-- Every instruction that a `FENCE` waits for has retired. -/
def execFenceRelease (g : BitVec 8) (s : State) : Res :=
  .next (s.updMould g.toNat fun m => match m.wait with
    | .fence mask => if m.fenceDone mask && !m.stopped then m.release else m
    | _ => m)

/-- `BARRIER` (R222). -/
def execBarrier (h : Hdr) (bid : BitVec 4) (device : Bool) (ra : BitVec 5) (s : State) : Res :=
  .next (pairReady (pairHeat h (.barrier h bid device ra) s fun s => s.updMould h.m.toNat fun m =>
    m.hold (.barrier device bid.toNat (m.getX ra.toNat) false)) h.m.toNat)

def execBarrierRelease (device : Bool) (c : BitVec 2) (bid : BitVec 4) (s : State) : Res :=
  .next (barrierRelease s device (if device then 0 else c.toNat) bid.toNat)

/-- `CHKST` (R227). -/
def execChkst (h : Hdr) (rd : BitVec 5) (s : State) : Res :=
  .next (pairReady (pairHeat h (.chkst h rd) s fun s => s.updMould h.m.toNat fun m => m.hold (.chkst rd)) h.m.toNat)

/-- `CHKINJ` (R228): works only while `INJ_EN` is set and for a kind that exists. -/
def execChkinj (h : Hdr) (sel : BitVec 2) (s : State) : Res :=
  .next (pairHeat h (.chkinj h sel) s fun s => s.updMould h.m.toNat fun m =>
    if bitOf (m.reg Reg.MID_TEST) 0 && sel != 3 then { m with inj := m.inj ++ [sel.toNat] }
    else m.count Reg.CTL_CNT_VIOL 1)

end Sys2Proof.Machine
end

