-- ==== Sys2Proof/Machine/Queue.lean ====
section
/-! DEFINITION. The engine queues of a mould (R131, R172 to R175, R188, R220, R242): how an instruction enters its queue, which
waits hold the head of a queue, and how heads run and retire. -/
namespace Sys2Proof.Machine

open Sys2Proof.Num

/-! ## Summary producers (R175) -/

/-- The summary register field of a captured instruction that has one. -/
def Work.skField (w : Work) : Option Nat :=
  match w with
  | .compact o _ _ _ _ _ _ => some o.sk.toNat
  | .prune o _ _ _ _ _ _ => some o.sk.toNat
  | .grow o _ _ _ _ _ _ _ _ _ => some o.sk.toNat
  | .vrun o _ _ _ _ _ _ => some o.sk.toNat
  | .coll _ o _ _ _ _ _ _ => some o.sk.toNat
  | .route k o _ _ _ _ _ _ _ _ => if k = .rsel ∨ k = .dispatch ∨ k = .tskip then some o.sk.toNat else none
  | .rupd o _ _ _ _ _ _ => some o.sk.toNat
  | .rfetch _ _ k _ => some k
  | .raudit _ k _ => some k
  | _ => none

/-- The summary register that it names: a launch names none when its program's `SUMOP` is 0 (R176). -/
def Work.sk (m : Mould) (w : Work) : Option Nat :=
  match w with
  | .vrun o _ _ _ _ _ _ =>
    let sl := m.slotAhead o.slot.toNat (m.ser + 1)
    if sl.valid && epSumOp sl.hdr == 0 then none else some o.sk.toNat
  | _ => w.skField

/-- The captured instruction with the serial number of its producer, 0 where it names none. -/
def Work.withSer (n : Nat) (w : Work) : Work :=
  match w with
  | .compact o d t p ok _ ph => .compact o d t p ok n ph
  | .prune o d q t k hm _ => .prune o d q t k hm n
  | .grow o d l t k tm p ok hm _ => .grow o d l t k tm p ok hm n
  | .vrun o map im ks q g _ => .vrun o map im ks q g n
  | .coll k o a b d ok _ r => .coll k o a b d ok n r
  | .route k o a b c x y d ok _ => .route k o a b c x y d ok n
  | .rupd o a b ks x af _ => .rupd o a b ks x af n
  | .rfetch a b k _ => .rfetch a b k n
  | .raudit a k _ => .raudit a k n
  | w => w

def Work.serOf (w : Work) : Nat :=
  match w with
  | .compact _ _ _ _ _ n _ => n
  | .prune _ _ _ _ _ _ n => n
  | .grow _ _ _ _ _ _ _ _ _ n => n
  | .vrun _ _ _ _ _ _ n => n
  | .coll _ _ _ _ _ _ n _ => n
  | .route _ _ _ _ _ _ _ _ _ n => n
  | .rupd _ _ _ _ _ _ n => n
  | .rfetch _ _ _ n => n
  | .raudit _ _ n => n
  | _ => 0

/-- The producer with this serial has retired with a value, which it will post if it is the latest of its register. -/
def Mould.produce (m : Mould) (ser : Nat) (v : W64) : Mould :=
  if ser = 0 then m
  else { m with producers := m.producers.map fun p => if p.ser = ser then { p with val := some v } else p }

/-! ## Resources (R174, R242) -/

/-- A resource that an instruction names, and whether it writes it: accumulator tile t, edit slot e, summary register k. -/
inductive Named where
  | acc (t : Nat) (w : Bool)
  | edit (e : Nat)
  | sum (k : Nat)
  deriving DecidableEq, Repr

def namedTiles (a n : Nat) (w : Bool) : List Named := (List.range n).map fun i => Named.acc (a + i) w

/-- What instruction number `seq` names. A group's size is taken from the first operand's format: four tiles for a narrow one, two
otherwise. -/
def Work.named (m : Mould) (seq : Nat) (w : Work) : List Named :=
  let sums := match w.skField with
    | some k => if w.serOf = 0 then [] else [Named.sum k]
    | none => []
  sums ++ match w with
    | .product kind o dw _ _ _ _ _ =>
      if kind = .spout ∨ kind = .sprobe then namedTiles o.acc.toNat (8 - o.acc.toNat) true
      else namedTiles o.acc.toNat (match viewOf dw with
        | some v => if narrowPlanar v.fmt then 4 else 2
        | none => 2) true
    | .accwr o _ _ _ _ => namedTiles o.acc.toNat (2 ^ min 2 o.xg.toNat) true
    | .accld o _ _ => namedTiles o.acc.toNat (2 ^ min 2 o.xg.toNat) true
    | .compact o _ _ _ _ _ _ => [.edit o.slot.toNat]
    | .prune o _ _ _ _ _ _ => [.edit o.slot.toNat]
    | .grow o _ _ _ _ _ _ _ _ _ => .edit o.slot.toNat :: namedTiles (4 * b2n o.pq) 4 false
    | .vrun o map _ _ _ _ _ =>
      (mapInputs (m.slotAhead o.slot.toNat seq).hdr map).flatMap fun b =>
        if b.groupOk && (b.kind == 1 || (b.kind == 2 && m.fallback)) then namedTiles b.at_ (2 ^ b.gs) false else []
    | _ => []

/-- Two instructions name one resource and at least one of them writes it. -/
def Named.clash (a b : Named) : Bool :=
  match a, b with
  | .acc t w, .acc u x => t == u && (w || x)
  | .edit e, .edit f => e == f
  | .sum k, .sum j => k == j
  | _, _ => false

/-- R174: an earlier-issued instruction of another queue that has not retired clashes with this one. -/
def Mould.mustWait (m : Mould) (q seq : Nat) (w : Work) : Bool :=
  let mine := w.named m seq
  (List.range 6).any fun p => p != q && (m.queue p).any fun e => match e with
    | .work n x => decide (n < seq) && (x.named m n).any fun a => mine.any fun b => a.clash b
    | _ => false

/-! ## Error responses (R17, R325, R380, R386) -/

/-- Accesses through an image are answered with error responses: its region lies on a stack that is fenced or being reset, or its
device cannot be reached. -/
def State.answersError (s : State) (d : W512) : Bool :=
  match viewOf d with
  | some v =>
    if v.dev = s.devAddr then
      v.window == some .hbm && (match s.regionAt v.base with
        | some n => (s.rgnStacks n).any s.stackErrs
        | none => false)
    else s.runner.down.contains v.dev
  | none => false

/-- Part of the instruction's work would be answered with an error response: an access through one of its images, the read of its
PCB, or a command to a riser whose stack is fenced; one that has started goes on. A launch reads no memory behind a wrapper: an image
elsewhere than R179 allows is void. What a shard has besides (its slots, tile table,
journal and update log) lies on the stack of its descriptor (R147, R284, R296). -/
def Work.hitsError (s : State) (w : Work) : Bool :=
  match w with
  | .compact _ _ _ _ _ _ (_ + 1) => false
  | .compact _ d _ p _ _ 0 => s.answersError d || s.addrErrs p.toNat
  | .grow _ d l _ _ _ p _ _ _ => s.answersError d || s.answersError l || s.addrErrs p.toNat
  | .rprog _ _ r _ => s.stackErrs r
  | .vrun _ _ _ _ _ _ _ => false
  | _ => w.images.any s.answersError

/-! ## Issue (R173, R175, R189, R237, R246) -/

/-- The latest collective under a `TID` that a mould has issued in this heat (R293). -/
def openReduction (s : State) (g tid : Nat) : Option (Nat × Nat) :=
  ((s.mould g).collIssued.reverse.find? fun c => c.1 == tid).map (·.2)

/-- What an instruction takes from the state as it enters its queue: the issue check of a launch (R189), the collective of an
export (R237), the reduction that a `RUPD` waits for (R293). -/
def Work.atIssue (w : Work) (s : State) (g : Nat) : Work :=
  match w with
  | .vrun o map im ks _ got n => .vrun o map im ks (launchCheck s g o.slot.toNat map) got n
  | .product k o dw dout df ra rb _ => .product k o dw dout df ra rb (if o.disp = 3 then s.exportTarget g (imgTid dout) else none)
  | .accwr o dout df rb _ => .accwr o dout df rb (if o.disp = 3 then s.exportTarget g (imgTid dout) else none)
  | .rupd o dg dw ks a _ n => .rupd o dg dw ks a (if o.gsrc then openReduction s g (imgTid dg) else none) n
  | w => w

/-- An instruction enters its queue: it takes its place in the issue order, marks its summary register pending, and a
collective reaches the runner. -/
def State.enqueue (s : State) (g q : Nat) (w : Work) : State :=
  let m := s.mould g
  let n := m.ser + 1
  let sk := w.sk m
  let w := (w.atIssue s g).withSer (if sk.isSome then n else 0)
  let s := s.updMould g fun m =>
    let m : Mould := { m.count Reg.CTL_PERF_ISSUE 1 with ser := n }
    let m : Mould := match sk with
      | some k => { m with producers := m.producers.filter (fun p => p.k ≠ k) ++ [⟨k, n, none⟩] }
      | none => m
    m.setQueue q (m.queue q ++ [QEnt.work n w])
  match w with
  | .coll kind _ ds dd de ok _ _ =>
    if w.hitsError s then s.collPost g n (BitVec.allOnes 64)
    else
    let r := s.collIssue g kind ds dd de ok n
    (match r.2 with
    | some v => r.1.collPost g n v
    | none => r.1)
  | _ => s

/-- An entry enters its queue. -/
def State.enqueueEnt (s : State) (g q : Nat) (e : QEnt) : State :=
  match e with
  | .work _ w => s.enqueue g q w
  | e => s.updMould g fun m => m.setQueue q (m.queue q ++ [e])

/-- An entry issues, or the pair waits in the issue stage with it while its queue is full (R173). -/
def State.issueEnt (s : State) (g q : Nat) (e : QEnt) : State :=
  if qDepth q ≤ ((s.mould g).queue q).length then s.updMould g fun m => m.hold (.room q e) else s.enqueueEnt g q e

/-! ## Heads -/

/-- Remove the head of a queue. -/
def State.popHead (s : State) (g q : Nat) : State := s.updMould g fun m => m.setQueue q (m.queue q).tail

/-- Replace the instruction at the head of a queue. -/
def State.setHead (s : State) (g q seq : Nat) (w : Work) : State :=
  s.updMould g fun m => m.setQueue q (.work seq w :: (m.queue q).tail)

/-- The head of a queue retires, with a value for its summary register. -/
def State.retireHead (s : State) (g q ser : Nat) (v : W64) : State := (s.popHead g q).updMould g fun m => m.produce ser v

/-- What running a head did: nothing, or a new state. -/
abbrev HeadRes := Option State

/-- A head of the matrix queue. -/
def runMatrixHead (s : State) (g seq : Nat) (w : Work) : HeadRes :=
  let engine (r : RunRes) : HeadRes := match r with
    | .blocked => none
    | .hold s => some s
    | .done s => some (s.popHead g 0)
  match w with
  | .product k o dw dout df ra rb c => engine (runProduct s g k o dw dout df ra rb c)
  | .accwr o dout df rb c => engine (runAccwr s g o dout df rb c)
  | .accld o dw rb => engine (runAccld s g o dw rb)
  | .tbload o da a b => some ((runTbload s g o da a b).popHead g 0)
  | .compact o d t p ok n ph =>
    if ph = 1 ∨ ph = 2 then none
    else match runCompact s g o d t p ok ph with
      | .wait s ph => some (s.setHead g 0 seq (.compact o d t p ok n ph))
      | .done s v => some (s.retireHead g 0 n v)
  | _ => some (s.popHead g 0)

/-- A head of the vector queue. -/
def runVectorHead (s : State) (g seq : Nat) (w : Work) : HeadRes :=
  match w with
  | .epload slot a => some ((runEpload s g slot a).popHead g 1)
  | .vrun o map im ks q got n =>
    (match runVrun s g o map im ks q got with
    | .wait s got' => if got'.length = got.length then none else some (s.setHead g 1 seq (.vrun o map im ks q got' n))
    | .done s v => some (s.retireHead g 1 n v))
  | _ => some (s.popHead g 1)

/-- A head of the riddle queue. -/
def runRiddleHead (s : State) (g : Nat) (w : Work) : HeadRes :=
  match w with
  | .prune o d q t k hm n =>
    let r := runPrune s g o d q t k hm
    some (r.1.retireHead g 2 n r.2)
  | .grow o d l t k tm p ok hm n => (runGrow s g o d l t k tm p ok hm).map fun r => r.1.retireHead g 2 n r.2
  | .route k _ a b c x y de ok n =>
    (match runRoute s g k a b c x y de ok with
    | .wait _ => none
    | .done s v => some (s.retireHead g 2 n v))
  | _ => some (s.popHead g 2)

/-- A head of the memory-move queue. -/
def runMoveHead (s : State) (g : Nat) (w : Work) : HeadRes :=
  match w with
  | .move o dd da => some ((runMove s g o dd da).popHead g 3)
  | .mfill o dd a => some ((runMfill s g o dd a).popHead g 3)
  | .digest da a r l => some ((runDigest s g da a r l).popHead g 3)
  | _ => some (s.popHead g 3)

/-- A head of the runner queue. -/
def runRunnerHead (s : State) (g : Nat) (w : Work) : HeadRes :=
  match w with
  | .coll _ _ _ _ de _ n res =>
    (match res with
    | some v => some (s.retireHead g 4 n v)
    | none =>
      let t := s.advanceColl (collGrp de) (collCseq de)
      if t = s then none else some t)
  | .route k _ a b c x y de ok n =>
    if w.hitsError s then some (s.retireHead g 4 n (BitVec.allOnes 64))
    else
    (match runRoute s g k a b c x y de ok with
    | .wait t => if t = s then none else some t
    | .done s v => some (s.retireHead g 4 n v))
  | _ => some (s.popHead g 4)

/-- A head of the riser queue goes to its riser once (R257); it retires when its riser has executed it. -/
def runRiserHead (s : State) (g : Nat) (w : Work) : HeadRes :=
  match riserTarget s w with
  | none =>
    if (List.range 8).any fun r => (s.riser r).queue.any fun c => c.g == g then none
    else some ((s.mcount g Reg.CTL_CNT_VIOL 1).retireHead g 5 w.serOf 0)
  | some r =>
    if (List.range 8).any fun r => (s.riser r).queue.any fun c => c.g == g then none
    else some (s.updRiser r fun x => { x with queue := x.queue ++ [⟨g, w, 0, 0, 0⟩] })

/-- Mould g executes a command of a failed riser: its vector and memory-move queues wait (R304). -/
def State.fallsBack (s : State) (g : Nat) : Bool :=
  (List.range 8).any fun r => (s.riser r).failed && ((s.riser r).queue.head?).any fun c => c.g == g

/-- Run the head of queue q of mould g if nothing holds it. -/
def runHead (s : State) (g q : Nat) : HeadRes :=
  let m := s.mould g
  if m.stopped then none
  else match m.queue q with
    | .work seq w :: _ =>
      if (q = 0 ∧ m.engWait ≠ .none) ∨ m.mustWait q seq w ∨ ((q = 1 ∨ q = 3) ∧ s.fallsBack g) then none
      else if q ≤ 3 ∧ w.hitsError s then some (s.retireHead g q w.serOf (BitVec.allOnes 64))
      else match q with
        | 0 => runMatrixHead s g seq w
        | 1 => runVectorHead s g seq w
        | 2 => runRiddleHead s g w
        | 3 => runMoveHead s g w
        | 4 => runRunnerHead s g w
        | _ => runRiserHead s g w
    | _ => none

/-- Run the command at the head of riser r's queue if nothing holds it; its mould's queue retires with it. One that ends with a chunk
open was cut off: the riser resumes (R297). -/
def runRiserQueue (s : State) (r : Nat) : HeadRes :=
  let x := s.riser r
  if x.stopped ∨ x.recover then none
  else match x.queue with
    | [] => none
    | c :: _ =>
      match if c.work.hitsError s then .done s (BitVec.allOnes 64) else runRiserCmd s r c with
      | .wait t c' =>
        let t := t.updRiser r fun x => { x with queue := c' :: x.queue.tail }
        if t = s then none else some t
      | .done t v =>
        let t := t.updRiser r fun x => { x with queue := x.queue.tail, recover := x.recover || x.opened.isSome }
        some (t.retireHead c.g 5 c.work.serOf v)

/-! ## Settling -/

/-- One pass over every queue of every mould and every riser. -/
def settlePass (s : State) : State × Bool :=
  let a := (s.moulds.map (·.1)).foldl (fun (a : State × Bool) g =>
    (List.range 6).foldl (fun (a : State × Bool) q => match runHead a.1 g q with
      | some t => (t, true)
      | none => a) a) (s, false)
  (List.range 8).foldl (fun (a : State × Bool) r => match runRiserQueue a.1 r with
    | some t => (t, true)
    | none => a) a

/-- Entries in all queues: each pass that does anything retires, delivers or moves on at least one. -/
def State.queued (s : State) : Nat :=
  totalBy (fun p => totalBy (fun q => q.2.length) p.2.queues) s.moulds + totalBy (fun r => r.2.queue.length) s.risers

def settleN : Nat → State → State
  | 0, s => s
  | n + 1, s =>
    let r := settlePass s
    if r.2 then settleN n r.1 else r.1

/-- Everything that can run runs: the engines, the runner and the risers work without being told; then the pairs that wait
for their queues go on. -/
def settle (s : State) : State :=
  let s := s.flushEnds
  let s := settleN (4 * s.queued + 4) s
  (s.moulds.map (·.1)).foldl pairReady s

/-- A tensor instruction issues with its operands captured, and whatever can run then runs. -/
def issueWork (h : Hdr) (i : Instr) (s : State) (q : Nat) (f : State → Work) : State :=
  settle (pairHeat h i s fun s => s.issueEnt h.m.toNat q (.work 0 (f s)))

/-! ## Releases that have a row of their own -/

/-- The pair waits for room in its queue: once there is room the entry issues (R173). -/
def execQueueRoom (g : BitVec 8) (s : State) : Res :=
  .next (match (s.mould g.toNat).wait with
    | .room q e =>
      if ((s.mould g.toNat).queue q).length < qDepth q then
        settle ((s.updMould g.toNat Mould.release).enqueueEnt g.toNat q e)
      else s
    | _ => s)

/-- Entries of a group pushed in order, the first with `FIRST` (R188). -/
def Mould.pushGroup (m : Mould) (tiles : List Nat) : Mould :=
  let m := { m with ftq := m.ftq ++ tiles.zipIdx.map fun t => ⟨t.1, t.2 == 0, tiles.length⟩ }
  tiles.foldl (fun m t => m.setAcc t { m.getAcc t with st := .queued }) m

/-- A closed group waits at the head of the matrix queue for room in the finished-tile queue of four entries (R188). -/
def execFtqPush (g : BitVec 8) (s : State) : Res :=
  .next (match (s.mould g.toNat).engWait with
    | .push ts f =>
      if (s.mould g.toNat).ftq.length + ts.length ≤ 4 then
        settle ((s.updMould g.toNat fun m =>
          { ((m.pushGroup ts).setReg Reg.MENG_FLAGS f).orReg Reg.MENG_FLAGS_STICKY f with engWait := .none }).popHead g.toNat 0)
      else s
    | _ => s)

/-- The tiles that overflowed on write are computed again and written (R67, R123). -/
def execOverflowRecompute (g : BitVec 8) (s : State) : Res :=
  .next (match recomputeHead s g.toNat with
    | some t => settle t
    | none => s)

/-- A `COMPACT` that waits at step 5 or step 9 goes on (R149). -/
def execCompactResume (g : BitVec 8) (s : State) : Res :=
  .next (match (s.mould g.toNat).queue 0 with
    | .work n (.compact o d t p ok k ph) :: _ =>
      if ph = 0 ∨ (s.mould g.toNat).stopped then s
      else match runCompact s g.toNat o d t p ok ph with
        | .wait s ph => s.setHead g.toNat 0 n (.compact o d t p ok k ph)
        | .done s v => settle (s.retireHead g.toNat 0 k v)
    | _ => s)

/-! ## Queue tokens (R219, R220) -/

/-- `QSIG`: a token with an unconsumed `QSIG` is a violation; so is a queue number above 5. -/
def execQsig (h : Hdr) (q : BitVec 3) (tk : BitVec 4) (s : State) : Res :=
  .next (pairHeat h (.qsig h q tk) s fun s =>
    let g := h.m.toNat
    if 5 < q.toNat ∨ (s.mould g).tokIssued.getLsbD tk.toNat then s.mcount g Reg.CTL_CNT_VIOL 1
    else
      (s.updMould g fun m => { m with tokIssued := m.tokIssued ||| BitVec.ofNat 16 (2 ^ tk.toNat) }).issueEnt g q.toNat
        (.sig tk.toNat))

/-- `QWAIT`: valid only with a `QSIG` issued before and not consumed, which it consumes. -/
def execQwait (h : Hdr) (q : BitVec 3) (tk : BitVec 4) (s : State) : Res :=
  .next (pairHeat h (.qwait h q tk) s fun s =>
    let g := h.m.toNat
    if 5 < q.toNat ∨ !(s.mould g).tokIssued.getLsbD tk.toNat then s.mcount g Reg.CTL_CNT_VIOL 1
    else
      (s.updMould g fun m => { m with tokIssued := m.tokIssued &&& ~~~(BitVec.ofNat 16 (2 ^ tk.toNat)) }).issueEnt g q.toNat
        (.wait tk.toNat))

/-- Token t is signalled (R220): once more if an earlier signal of it still waits for its `QWAIT`. -/
def Mould.signal (m : Mould) (t : Nat) : Mould :=
  if m.tokSignalled.getLsbD t then { m with tokMore := t :: m.tokMore }
  else { m with tokSignalled := m.tokSignalled ||| BitVec.ofNat 16 (2 ^ t) }

/-- A `QWAIT` of token t consumes one signal of it (R220). -/
def Mould.unsignal (m : Mould) (t : Nat) : Mould :=
  if m.tokMore.contains t then { m with tokMore := m.tokMore.erase t }
  else { m with tokSignalled := m.tokSignalled &&& ~~~(BitVec.ofNat 16 (2 ^ t)) }

/-- The `QSIG` of a token has reached the head of its queue: every instruction before it has retired. -/
def execTokenSignal (g : BitVec 8) (tk : BitVec 4) (s : State) : Res :=
  let m := s.mould g.toNat
  .next (match (List.range 6).find? fun q => (m.queue q).head? == some (.sig tk.toNat) with
    | some q => if m.stopped then s else
        settle ((s.popHead g.toNat q).updMould g.toNat fun m => m.signal tk.toNat)
    | none => s)

/-- The `QWAIT` at the head of a queue finds its token signalled and consumes one signal of it. -/
def execQwaitRelease (g : BitVec 8) (q : BitVec 3) (s : State) : Res :=
  let m := s.mould g.toNat
  .next (match m.queue q.toNat with
    | .wait t :: _ =>
      if m.stopped ∨ !m.tokSignalled.getLsbD t then s
      else settle ((s.popHead g.toNat q.toNat).updMould g.toNat fun m => m.unsignal t)
    | _ => s)

end Sys2Proof.Machine
end

