-- ==== Sys2Proof/Machine/Tensor.lean ====
section
/-! DEFINITION. The tensor instructions as the pair issues them (R215 to R218, R226, R230, R241, R243, R244, R246, R250, R258,
R453): each captures its descriptor images and scalar operands and enters its queue. -/
namespace Sys2Proof.Machine

/-! ## Moves and digests -/

def execMove (h : Hdr) (o : MoveOps) (s : State) : Res :=
  .next (issueWork h (.move h o) s 3 fun s =>
    let m := s.mould h.m.toNat
    .move o (m.getD o.dd.toNat) (m.getD o.da.toNat))

def execMfill (h : Hdr) (o : MoveOps) (s : State) : Res :=
  .next (issueWork h (.mfill h o) s 3 fun s =>
    let m := s.mould h.m.toNat
    .mfill o (m.getD o.dd.toNat) (m.getX o.ra.toNat))

def execTbload (h : Hdr) (o : MoveOps) (s : State) : Res :=
  .next (issueWork h (.tbload h o) s 0 fun s =>
    let m := s.mould h.m.toNat
    .tbload o (m.getD o.da.toNat) (m.getX o.ra.toNat) (m.getX o.rb.toNat))

def execDigest (h : Hdr) (da : BitVec 6) (ra : BitVec 5) (rec_ : Bool) (label : BitVec 16) (s : State) : Res :=
  .next (issueWork h (.digest h da ra rec_ label) s 3 fun s =>
    let m := s.mould h.m.toNat
    .digest (m.getD da.toNat) (m.getX ra.toNat) rec_ label)

/-! ## Products and accumulators (R230, R453) -/

/-- The fields that R453 reserves read as zero. -/
def normInner (o : ProdOps) : ProdOps := { o with xg := 0 }
def normSpout (o : ProdOps) : ProdOps := { o with df := 0, fop := 0 }
def normSprobe (o : ProdOps) : ProdOps := { o with df := 0, fop := 0, srs := false, wrs := false, rm := 0 }
def normAccwr (o : ProdOps) : ProdOps := { o with dw := 0, ra := 0, buf := 0, add := false, srs := false, wrs := false }
def normAccld (o : ProdOps) : ProdOps :=
  { o with dout := 0, df := 0, ra := 0, buf := 0, add := false, disp := 0, fop := 0, srs := false, wrs := false }

/-- The header with the class's own reserved fields counted in (R201, R453). -/
def hdrAlso (h : Hdr) (b : Bool) : Hdr := { h with rsv := h.rsv || b }

/-- A product of `kind`; its class fields already normalised. -/
def issueProduct (h : Hdr) (i : Instr) (kind : ProdKind) (o n : ProdOps) (s : State) : State :=
  issueWork (hdrAlso h (o != n)) i s 0 fun s =>
    let m := s.mould h.m.toNat
    .product kind n (m.getD n.dw.toNat) (m.getD n.dout.toNat) (m.getD n.df.toNat) (m.getX n.ra.toNat) (m.getX n.rb.toNat) none

def execSpmm (h : Hdr) (o : ProdOps) (s : State) : Res := .next (issueProduct h (.spmm h o) .spmm o (normInner o) s)
def execSpmmt (h : Hdr) (o : ProdOps) (s : State) : Res := .next (issueProduct h (.spmmt h o) .spmmt o (normInner o) s)
def execSpout (h : Hdr) (o : ProdOps) (s : State) : Res := .next (issueProduct h (.spout h o) .spout o (normSpout o) s)
def execSprobe (h : Hdr) (o : ProdOps) (s : State) : Res := .next (issueProduct h (.sprobe h o) .sprobe o (normSprobe o) s)
def execDmm (h : Hdr) (o : ProdOps) (s : State) : Res := .next (issueProduct h (.dmm h o) .dmm o (normInner o) s)

def execAccwr (h : Hdr) (o : ProdOps) (s : State) : Res :=
  let n := normAccwr o
  .next (issueWork (hdrAlso h (o != n)) (.accwr h o) s 0 fun s =>
    let m := s.mould h.m.toNat
    .accwr n (m.getD n.dout.toNat) (m.getD n.df.toNat) (m.getX n.rb.toNat) none)

def execAccld (h : Hdr) (o : ProdOps) (s : State) : Res :=
  let n := normAccld o
  .next (issueWork (hdrAlso h (o != n)) (.accld h o) s 0 fun s =>
    let m := s.mould h.m.toNat
    .accld n (m.getD n.dw.toNat) (m.getX n.rb.toNat))

/-! ## Patterns (R241) -/

/-- Is the control block at an address valid for W (R147), as the check at issue finds it. -/
def pcbCheck (s : State) (g : Nat) (w : W512) (pcb : W64) : Bool :=
  match viewOf w with
  | some v => (readPcb s g pcb.toNat).ok s v
  | none => false

def execPrune (h : Hdr) (o : PatOps) (s : State) : Res :=
  .next (issueWork h (.prune h o) s 2 fun s =>
    let m := s.mould h.m.toNat
    .prune o (m.getD o.dw.toNat) (m.getD o.dq.toNat) (m.getX o.ra.toNat) (m.getX o.rb.toNat) (s.modeBit 1) 0)

/-- In hardware grow mode `DQ` is reserved (R241). -/
def execGrow (h : Hdr) (o : PatOps) (s : State) : Res :=
  .next (issueWork (hdrAlso h (!s.modeBit 0 && o.dq != 0)) (.grow h o) s 2 fun s =>
    let g := h.m.toNat
    let m := s.mould g
    .grow o (m.getD o.dw.toNat) (m.getD o.dq.toNat) (m.getX o.ra.toNat) (m.getX o.rb.toNat) (m.getX o.rc.toNat)
      (m.getX o.rd.toNat) (pcbCheck s g (m.getD o.dw.toNat) (m.getX o.rd.toNat)) (s.modeBit 0) 0)

def execCompact (h : Hdr) (o : PatOps) (s : State) : Res :=
  .next (issueWork h (.compact h o) s 0 fun s =>
    let g := h.m.toNat
    let m := s.mould g
    .compact o (m.getD o.dw.toNat) (m.getX o.ra.toNat) (m.getX o.rb.toNat)
      (pcbCheck s g (m.getD o.dw.toNat) (m.getX o.rb.toNat)) 0 0)

/-! ## Vector engine (R243 to R245) -/

def execEpload (h : Hdr) (slot : BitVec 4) (ra : BitVec 5) (s : State) : Res :=
  .next (issueWork h (.epload h slot ra) s 1 fun s => .epload slot.toNat ((s.mould h.m.toNat).getX ra.toNat))

/-- The six operands of a map as captured: the images of the bytes with `KIND` 0. -/
def Mould.mapImages (m : Mould) (map : W64) : List W512 :=
  (List.range 6).map fun i =>
    let b := mapByte map i
    if b.kind = 0 then m.getD b.dreg else voidImage

/-- k0 to k7 from `KB` on. -/
def Mould.scalars (m : Mould) (kb : BitVec 5) : List W32 := (List.range 8).map fun i => m.kReg (kb.toNat + i)

def execVrun (h : Hdr) (o : VrunOps) (s : State) : Res :=
  .next (issueWork h (.vrun h o) s 1 fun s =>
    let m := s.mould h.m.toNat
    let map := m.getX o.ra.toNat
    .vrun o map (m.mapImages map) (m.scalars o.kb) true [] 0)

/-! ## Collectives and routing (R246, R250, R252) -/

/-- A 64 B descriptor in data memory as eight words, and whether its address is allowed. -/
def Mould.descWords (m : Mould) (a : W64) : List W64 × Bool :=
  if a.toNat % 64 = 0 ∧ a.toNat < 0x10000 then
    ((List.range 8).map fun i => BitVec.ofNat 64 (m.dmem.word (a.toNat + 8 * i) 8), true)
  else ([], false)

def issueColl (h : Hdr) (i : Instr) (kind : CollKind) (o : CollOps) (s : State) : State :=
  issueWork h i s 4 fun s =>
    let m := s.mould h.m.toNat
    let d := m.descWords (m.getX o.ra.toNat)
    .coll kind o (m.getD o.ds.toNat) (m.getD o.dd.toNat) d.1 d.2 0 none

def execRscat (h : Hdr) (o : CollOps) (s : State) : Res := .next (issueColl h (.rscat h o) .rscat o s)
def execAgath (h : Hdr) (o : CollOps) (s : State) : Res := .next (issueColl h (.agath h o) .agath o s)
def execAred (h : Hdr) (o : CollOps) (s : State) : Res := .next (issueColl h (.ared h o) .ared o s)
def execA2a (h : Hdr) (o : CollOps) (s : State) : Res := .next (issueColl h (.a2a h o) .a2a o s)

def execRnorm (h : Hdr) (o : CollOps) (s : State) : Res := .next (issueColl h (.rnorm h o) .rnorm o s)

def issueRoute (h : Hdr) (i : Instr) (q : Nat) (kind : RouteKind) (o : RouteOps) (s : State) : State :=
  issueWork h i s q fun s =>
    let m := s.mould h.m.toNat
    let d := if kind = .dispatch ∨ kind = .return_ ∨ kind = .combine then m.descWords (m.getX o.ra.toNat) else ([], true)
    .route kind o (m.getD o.d0.toNat) (m.getD o.d1.toNat) (m.getD o.d2.toNat) (m.getX o.ra.toNat) (m.getX o.rb.toNat) d.1 d.2 0

def execRsel (h : Hdr) (o : RouteOps) (s : State) : Res := .next (issueRoute h (.rsel h o) 2 .rsel o s)
def execDispatch (h : Hdr) (o : RouteOps) (s : State) : Res := .next (issueRoute h (.dispatch h o) 4 .dispatch o s)
def execReturn (h : Hdr) (o : RouteOps) (s : State) : Res := .next (issueRoute h (.return_ h o) 4 .return_ o s)
def execCombine (h : Hdr) (o : RouteOps) (s : State) : Res := .next (issueRoute h (.combine h o) 4 .combine o s)
def execGather (h : Hdr) (o : RouteOps) (s : State) : Res := .next (issueRoute h (.gather h o) 4 .gather o s)
def execScatter (h : Hdr) (o : RouteOps) (s : State) : Res := .next (issueRoute h (.scatter h o) 4 .scatter o s)
def execTskip (h : Hdr) (o : RouteOps) (s : State) : Res := .next (issueRoute h (.tskip h o) 2 .tskip o s)

/-! ## Riser commands (R258) -/

def execRupd (h : Hdr) (o : RupdOps) (s : State) : Res :=
  .next (issueWork h (.rupd h o) s 5 fun s =>
    let m := s.mould h.m.toNat
    .rupd o (m.getD o.dg.toNat) (m.getD o.dw.toNat) (m.scalars o.kb) (m.getX o.ra.toNat) none 0)

def execRprog (h : Hdr) (pslot : BitVec 4) (ra : BitVec 5) (rsr : BitVec 3) (s : State) : Res :=
  .next (issueWork h (.rprog h pslot ra rsr) s 5 fun s =>
    let m := s.mould h.m.toNat
    match epWords m.dmem (m.getX ra.toNat).toNat with
    | some ws => .rprog pslot.toNat ws rsr.toNat true
    | none => .rprog pslot.toNat [] rsr.toNat false)

def execRfetch (h : Hdr) (dd da : BitVec 6) (sk : BitVec 3) (s : State) : Res :=
  .next (issueWork h (.rfetch h dd da sk) s 5 fun s =>
    let m := s.mould h.m.toNat
    .rfetch (m.getD dd.toNat) (m.getD da.toNat) sk.toNat 0)

def execRaudit (h : Hdr) (dw : BitVec 6) (sk : BitVec 3) (s : State) : Res :=
  .next (issueWork h (.raudit h dw sk) s 5 fun s => .raudit ((s.mould h.m.toNat).getD dw.toNat) sk.toNat 0)

/-! ## What reaches the runner and the risers from outside (R301, R330 to R344) -/

def execCollectiveSlotGrant (grp : Byte) (cseq : W32) (s : State) : Res := .next (settle (s.grantColl grp.toNat cseq.toNat))

def execCollectiveHeader (grp : Byte) (cseq : W32) (rank : Nat) (hd : CollHeader) (s : State) : Res :=
  .next (settle (s.collMessage grp.toNat cseq.toNat rank (.collectiveHeader grp cseq rank hd)))
def execExponentCode (grp : Byte) (cseq : W32) (rank : Nat) (codes : TileCodes) (s : State) : Res :=
  .next (settle (s.collMessage grp.toNat cseq.toNat rank (.exponentCode grp cseq rank codes)))
def execAlignmentCode (grp : Byte) (cseq : W32) (owner : Nat) (codes : TileCodes) (s : State) : Res :=
  .next (settle (s.collMessage grp.toNat cseq.toNat owner (.alignmentCode grp cseq owner codes)))
def execPartialWindow (grp : Byte) (cseq : W32) (rank : Nat) (windows : List (BitVec 96)) (s : State) : Res :=
  .next (settle (s.collMessage grp.toNat cseq.toNat rank (.partialWindow grp cseq rank windows)))
def execResultGather (grp : Byte) (cseq : W32) (rank : Nat) (results : TileResults) (s : State) : Res :=
  .next (settle (s.collMessage grp.toNat cseq.toNat rank (.resultGather grp cseq rank results)))
def execExportArrival (m : BitVec 8) (s : State) : Res := .next (settle (s.exportArrival m.toNat))

/-- The limit covers collectives and dispatches (R330, R335, R343). -/
def execCollectiveTimeout (grp : Byte) (cseq : W32) (s : State) : Res :=
  .next (settle ((s.collTimeout grp.toNat cseq.toNat).routeTimeout grp.toNat cseq.toNat))

def execDispatchCount (rseq : W32) (dev : W16) (base : W32) (counts : List W32) (s : State) : Res :=
  .next (settle (s.routeMessage (.dispatchCount rseq dev base counts)))
def execDispatchRow (rseq : W32) (expert : BitVec 7) (slot : W32) (tag : RowTag) (codes scales : List Byte) (s : State) : Res :=
  .next (settle (s.routeMessage (.dispatchRow rseq expert slot tag codes scales)))
def execReturnRow (rseq : W32) (token : W32) (rank : BitVec 3) (codes : List Byte) (s : State) : Res :=
  .next (settle (s.routeMessage (.returnRow rseq token rank codes)))

end Sys2Proof.Machine
end

