-- ==== Sys2Proof/Machine/Faults.lean ====
section
/-! DEFINITION. Detected faults and their recovery (R126, R166, R191, R301 to R304, R379, R382, R386, R389 to R393): fencing
of moulds and risers, aborted heats, and what the owner of a shard does when a peer asks. -/
namespace Sys2Proof.Machine

/-! ## Aborted heats (R379, R392) -/

/-- Every mould after a per-block reset; those in service are released at instruction 0 (R168, R419). -/
def State.resetMoulds (s : State) : State :=
  { s with moulds := s.servingList.map fun g => (g, { Mould.reset with running := true }) }

/-- Indices whose own mould is neither in service nor fused. -/
def State.absent (s : State) : List Nat :=
  (List.range 256).filter fun g => !s.serving g && s.mstate g != Svc.fused

/-- Collectives and routing steps end with error responses (R325, R392), and what was held for the heat is released. -/
def State.dropRunner (s : State) : State :=
  let s := s.runner.colls.foldl (fun s c => c.fail s) s
  { s with runner := { s.runner with colls := [], held := [], finished := [], early := [], exports := [], steps := [], returning := [] } }

/-- Riser commands end, and every claim is dropped (R153, R298); a chunk that is open stays as its journal says, and its riser
resumes (R297, R392). -/
def State.dropRisers (s : State) : State :=
  (List.range 8).foldl (fun s r => (s.endCommands r fun _ => true).updRiser r fun x => { x with claims := [] }) s

/-- An aborted heat: no record and no `HEAT_DONE`; memory, riser state, descriptors, tables and modes remain (R392). With no
heat running there is nothing to abort. -/
def State.abort (s : State) : State :=
  if !s.heatRuns then s
  else
    let away := s.absent
    let s := s.dropRunner.dropRisers.resetMoulds
    let s := away.foldl (fun s g => s.setHost g none) s
    ({ s with barriers := [],
              heats := { s.heats with guests := away.map fun g => (g, none) } }).setField Reg.HOST_STATUS 3 3 0

/-! ## Moulds (R386, R388, R390, R403) -/

/-- `DETAIL` of a mould's fault: PC and checkpoint number (R384). -/
def Mould.detail (m : Mould) : Nat :=
  m.pc.toNat + (match m.ckpt with
    | some c => c.num
    | none => 0) * 2 ^ 64

/-- The risers drop the claims of a fenced index, and its commands there end (R153, R386). -/
def State.dropClaims (s : State) (g : Nat) : State :=
  (List.range 8).foldl (fun s r => (s.endCommands r fun c => c.g == g).updRiser r fun x =>
    { x with claims := x.claims.filter fun c => c.2.2 ≠ g }) s

/-- Another mould of g's crucible is in service. -/
def State.crucibleAlive (s : State) (g : Nat) : Bool :=
  (List.range 64).any fun i => let k := 64 * (g / 64) + i; k != g && s.serving k

/-- The wrapper closes round a mould: `FAILED`, its pair is halted (R194), nothing issues, and its work and its guests wait for a
carrier (R386). -/
def State.fenceMould (s : State) (g : Nat) : State :=
  let work := g :: s.carried g
  let s := (work.foldl State.dropClaims (s.setMstate g Svc.failed)).updMould g fun m =>
    { m with running := false, halted := true, stopped := true }
  let s := { s with runner := { s.runner with returning := s.runner.returning.filter fun x => !work.contains x.1 } }
  work.foldl State.orphan s

/-- A mould fault (R390); in host-assisted remap mode its work waits for the holder (R403). A crucible with no mould left in
service makes the fault fatal (R389). -/
def State.failMould (s : State) (g mech : Nat) : State :=
  if !s.serving g then s
  else
    let detail := (s.mould (s.occupant g)).detail
    if s.crucibleAlive g then
      (s.raiseFault { mech := mech, unit := g, cls := .degraded, action := 2, hostwait := s.modeBit 7, detail := detail }).fenceMould g
    else ((s.raiseFault { mech := mech, unit := g, cls := .fatal, action := 9, detail := detail }).fenceMould g).abort

/-- A mismatch between the two cores of a pair (R166). -/
def execLockstepMismatch (g : BitVec 8) (s : State) : Res := .next (s.failMould g.toNat 3)

/-- A mismatch of the engine's checks in the operation that `sel` names as in R228: found only while comparisons are made
(R378); the first is retried and masked, a second in the retry fails the mould (R126). -/
def execCheckMismatch (g : BitVec 8) (sel : BitVec 2) (again : Bool) (s : State) : Res :=
  let mech := if sel = 0 then 1 else 2
  .next (if !s.hchk || !s.serving g.toNat then s
    else if again then s.failMould g.toNat mech
    else s.maskedRetry (s.occupant g.toNat) mech false)

/-- A fault in the control of the finished-tile queue: the fall-back path (R191). -/
def execFtqControlFault (g : BitVec 8) (s : State) : Res :=
  .next (if !s.serving g.toNat then s
    else
      let o := s.occupant g.toNat
      settle ((s.raiseFault { mech := 2, unit := g.toNat, cls := .masked, action := 0,
                              detail := (s.mould o).detail }).updMould o fun m => ftqEnWrite m false))

/-! ## Risers (R298, R301 to R304) -/

/-- `TID` and chunk that a riser works on, for `DETAIL`. -/
def State.riserWork (s : State) (r : Nat) : Nat :=
  match (s.riser r).opened with
  | some o => riserDetail (fld (s.reg (shdOff r o.entry 0)) 23 0) o.chunk
  | none => match (s.riser r).queue with
    | c :: _ => riserDetail (match c.work.images.getLast? with
        | some d => imgTid d
        | none => 0) c.next
    | [] => 0

/-- A riser failed (R303, R304, R391): the command that it was executing ends with an error response (R298), and the moulds
execute the others once the open chunk has been resumed. -/
def State.failRiser (s : State) (r mech : Nat) : State :=
  let x := s.riser r
  if x.failed then s
  else
    let s := s.raiseFault { mech := mech, unit := unitRiser r, cls := .degraded, action := 3, detail := s.riserWork r }
    let cut := match x.queue with
      | c :: _ => c.off != 0 || c.next != 0
      | [] => false
    let s := s.updRiser r fun x => { x with failed := true, recover := true, queue := if cut then x.queue.tail else x.queue }
    match cut, x.queue with
    | true, c :: _ => s.retireHead c.g 5 c.work.serOf (BitVec.allOnes 64)
    | _, _ => s

/-- A mismatch of a riser's duplicated units (R303). -/
def execRiserCheckMismatch (r : BitVec 3) (again : Bool) (s : State) : Res :=
  .next (if !s.hchk || !s.riserServing r.toNat then s
    else if again then settle (s.failRiser r.toNat 2)
    else (s.rcount r.toNat Reg.RISER_CHK_RETRY 1).raiseFault
      { mech := 2, unit := unitRiser r.toNat, cls := .masked, action := 1, detail := s.riserWork r.toNat })

/-- The resumption of R297, when it is due. -/
def execRiserResume (r : BitVec 3) (s : State) : Res :=
  .next (if (s.riser r.toNat).recover || (s.riser r.toNat).stopped then settle (s.riserResume r.toNat) else s)

/-- The shard of a `TID` that riser r owns, as the descriptor of the peer's message gives its tensor on this device (R284, R301;
log entry 71). -/
def State.ownedShard (s : State) (r tid : Nat) (d : W512) : Option Shard :=
  match s.shardEntry r 0 tid, viewOf d with
  | some e, some v =>
    if v.layout = .sparse ∧ v.dev = s.devAddr ∧ v.tid = tid ∧ s.riserOf v.base = some r then some (s.shard v r e) else none
  | _, _ => none

/-- A peer asks for a chunk (R301): served only while it is not `COMMITTED` and no claim is held; until then the request
waits. A `BAD` chunk, or a shard that this riser does not own, is answered with an error. -/
def execFetchServe (r : BitVec 3) (tid : BitVec 24) (chunk : W32) (peer : ShardPeer) (s : State) : Res :=
  let dev := peer.dev
  let r := r.toNat
  let c := chunk.toNat
  .next (match s.ownedShard r tid.toNat peer.da with
    | none => s.send (.fetch r tid.toNat c dev [] [] 0 0 true)
    | some h =>
      let j := h.jnlAt s c
      if j.phase = 3 ∨ h.claimed s c then s
      else if j.bad then s.send (.fetch r tid.toNat c dev [] [] j.wdig j.cheat true)
      else
        let ts := h.receive s h.v c
        s.send (.fetch r tid.toNat c dev (ts.map fun x => h.v.dirWords s 0 x.tile.tr x.tile.tc) (ts.map (·.rec_)) j.wdig
          j.cheat false))

/-- A peer reports a mismatch that its refetch did not cure (R301 steps 1 to 3c). -/
def execMismatchReport (r : BitVec 3) (tid : BitVec 24) (chunk : W32) (peer : ShardPeer) (s : State) : Res :=
  .next (if !s.hchk then s else match s.ownedShard r.toNat tid.toNat peer.da with
    | none => s
    | some h => h.recheck s chunk.toNat)

/-! ## Crucible sequencers, memories (R391) -/

/-- A crucible sequencer's mismatch or stall: the heat is aborted and the sequencer reset; the second since the last device
reset is fatal. -/
def State.failSequencer (s : State) (c mech : Nat) : State :=
  let again := s.seqMismatch.contains c
  let s := s.raiseFault { mech := mech, unit := unitSeq c, cls := if again then .fatal else .aborted,
                          action := if again then 9 else 8 }
  { s.abort with seqMismatch := if again then s.seqMismatch else s.seqMismatch ++ [c] }

def execSequencerMismatch (c : BitVec 2) (s : State) : Res := .next (s.failSequencer c.toNat 2)

/-- `UNIT` of a memory fault outside the HBM stacks: the memory system of R370 (log entry 50). -/
def unitMemory : Nat := 0x200
/-- `UNIT` of the runner (R353). -/
def unitRunner : Nat := 0x300

/-- An uncorrectable SRAM or flask error (R382, R390, R391). -/
def execSecdedUncorrectable (p : SramPlace) (s : State) : Res :=
  .next (match p with
    | .mould g => s.failMould g.toNat 5
    | .flask a => (s.raiseFault { mech := 5, unit := unitMemory, cls := .aborted, action := 8, detail := a.toNat }).abort
    | .reductionBuffer _ => (s.raiseFault { mech := 5, unit := unitRunner, cls := .aborted, action := 8 }).abort)

/-- An uncorrectable HBM error: the heat is aborted, the stack stays in service (R391). -/
def execHbmEccUncorrectable (a : BitVec 48) (s : State) : Res :=
  .next ((s.raiseFault { mech := 6, unit := unitStack (s.stackOf a.toNat), cls := .aborted, action := 8,
                         detail := a.toNat }).abort)

end Sys2Proof.Machine
end

