-- ==== Sys2Proof/Machine/Views.lean ====
section
/-! DEFINITION. The device register space as a read sees it (R14, R16): stored fields, and fields that follow other state
(R309, R310, R346, R374, R400, R404, R405, R430, R431). -/
namespace Sys2Proof.Machine

/-- A `COMPACT` at the head of a matrix queue waits at step 5 for the roll-forward of a chunk of riser r, which waits for the ring
(R299, R305). -/
def State.rollWaits (s : State) (r : Nat) : Bool :=
  s.moulds.any fun p => match p.2.queue 0 with
    | .work _ (.compact _ d t _ _ _ 1) :: _ => (match viewOf d with
      | some v => (match s.ownerOf v with
        | some (q, e) => q == r && (s.shard v q e).committed s ((s.shard v q e).chunkOf (fld t 49 25 * v.tileCols + fld t 24 0))
        | none => false)
      | none => false)
    | _ => false

/-- Riser r, or a compaction in one of its chunks, waits for room in the ring (R305). -/
def State.ringWaits (s : State) (r : Nat) : Bool :=
  (s.riser r).opened.isSome || s.heats.endWait.any (fun e => e.type == 2 && e.riser == r) || s.rollWaits r

/-- The command at the head is executing. -/
def Riser.executing (x : Riser) : Bool :=
  match x.queue with
  | c :: _ => c.off != 0 || c.next != 0
  | [] => false

/-- `RISER_STATUS` (R310). `QDEPTH` leaves out the command that is executing; a failed riser is fenced, so it is stopped (R304). -/
def State.riserStatus (s : State) (r : Nat) : Nat :=
  let x := s.riser r
  let started := x.executing
  let rupd := match x.queue with
    | c :: _ => (match c.work with
      | .rupd _ _ _ _ _ _ _ => started
      | _ => false)
    | [] => false
  (x.queue.length - b2n started) % 32 * 2 ^ 16 + 32 * b2n x.recover + 16 * b2n (s.ringWaits r)
    + 8 * b2n (rupd && x.opened.isNone && !x.claims.isEmpty) + 4 * b2n x.failed + 2 * b2n started
    + b2n (x.stopped || x.failed || x.recover)

/-- `RISER_JNL_PHASE` (R310). -/
def riserPhase (x : Riser) : Nat :=
  match x.opened with
  | some o => o.chunk * 2 ^ 32 + o.entry * 2 ^ 16 + 4 + o.phase
  | none => 0

/-- Ports that are `UP` (R347). -/
def State.portsUp (s : State) : Nat := ((List.range 16).filter fun p => s.field (pstOff p) 2 0 == 2).length

/-- `SVC_CAPACITY` (R405). -/
def State.capacity (s : State) : Nat :=
  b2n (bitOf (s.reg Reg.HOST_STATUS) 0) * 2 ^ 40 + s.portsUp * 2 ^ 32
    + ((List.range 8).filter s.stackServing).length * 2 ^ 24 + ((List.range 8).filter s.riserServing).length * 2 ^ 16
    + s.servingList.length

/-- Byte i of the identity certificate of 8 KiB (R428): the map of enabled moulds is what this part has (R3), the rest is free. -/
def State.identByte (s : State) (i : Nat) : Byte :=
  let a := Config.identMapAt % 8161
  if a ≤ i ∧ i < a + 32 then
    BitVec.ofNat 8 (packGroups 1 ((List.range 8).map fun k => b2n (!s.pwr.fused.contains (8 * (i - a) + k))))
  else Config.identByte i

/-- Bytes [i, i + n) of the certificate, which wraps. -/
def State.identBytes (s : State) (i n : Nat) : List Byte := (List.range n).map fun k => s.identByte ((i + k) % 8192)

def PwrSt.code : PwrSt → Nat
  | .charging => 0 | .fuse => 1 | .ingot => 2 | .tap => 3 | .ready => 4 | .quench => 5 | .held => 6 | .bootwait => 7

/-- The valid save image with the highest `QSEQ` (R413). -/
def Power.bestSave (p : Power) : Option SaveImg :=
  p.saves.foldl (fun b i => match b with
    | some x => if x.qseq < i.qseq then some i else b
    | none => some i) none

/-- Open sessions (R374). -/
def HostPort.openCount (h : HostPort) : Nat := (h.sessions.filter (·.opened)).length

/-- A riser register as a read sees it. -/
def riserView (s : State) (off : Nat) : W64 :=
  let r := (off - Reg.RISER) / 0x1000
  let x := s.riser r
  let o := off % 0x1000
  if o = Reg.RISER_STATUS then BitVec.ofNat 64 (s.riserStatus r)
  else if o = Reg.RISER_JNL_PHASE then BitVec.ofNat 64 (riserPhase x)
  else if o = Reg.RISER_PSLOT_VALID then
    BitVec.ofNat 64 (packGroups 1 ((List.range 16).map fun n => b2n (SMap.get EpSlot.reset x.slots n).valid))
  else s.reg off

/-- The runner has work: a collective or a `DISPATCH` that has not retired, or an instruction in a mould's runner queue. -/
def State.runnerBusy (s : State) : Bool :=
  (s.runner.colls.any fun c => c.phase != .done)
    || (s.runner.steps.any fun r => r.phase != .done && r.phase != .void && r.phase != .error)
    || s.moulds.any fun e => !(e.2.queue 4).isEmpty

/-- Value of a device register as a read sees it; an offset that names none reads 0 (R16, R358). -/
def devView (s : State) (off : Nat) : W64 :=
  let n : Nat → W64 := BitVec.ofNat 64
  if (devRow off).isNone then 0
  else if off = Reg.HOST_STATUS then
    setFld (setFld (s.reg off) 11 8 s.host.openCount) 4 4 (b2n s.heats.pendingLaunch.isSome)
  else if off = Reg.HOST_CFG then setFld (s.reg off) 2 2 (b2n (s.modeBit 10))
  else if off = Reg.MEM_THERM_CFG then setFld (s.reg off) 0 0 (b2n (s.modeBit 9))
  else if Reg.RISER ≤ off ∧ off < 0x38000 then riserView s off
  else if off = Reg.RISER_SS_CFG then setFld (s.reg off) 1 1 (b2n (s.modeBit 11))
  else if off = Reg.RUN_STATUS then
    n (s.openColls % 128 * 2 ^ 16 + 2 * b2n s.runnerBusy + b2n (s.pwr.st == .quench || s.pwr.st == .held))
  else if off = Reg.RUN_BUF_FREE then n s.bufFree
  else if off = Reg.SVC_CAPACITY then n s.capacity
  else if off = Reg.PWR_STATUS then setFld (s.reg off) 7 4 s.pwr.st.code
  else if off = Reg.PWR_BOOT_STATUS then setFld (s.reg off) 47 40 s.pwr.fsvn
  else if off = Reg.PWR_OPT then s.pwr.opt
  else if off = Reg.PWR_FLASH_CTL then setFld (s.reg off) 62 62 (b2n s.pwr.ingotBusy.isSome)
  else if Reg.PWR_IDENT ≤ off ∧ off < Reg.PWR_ATTEST then n (leNat (s.identBytes (off - Reg.PWR_IDENT) 8))
  else if Reg.PWR_ATTEST ≤ off ∧ off < 0x68000 then
    if s.pwr.attests = 0 then 0 else Config.attestWord s.pwr.attests ((off - Reg.PWR_ATTEST) / 8)
  else if Reg.PWR_QIMG ≤ off ∧ off < 0xD0000 then
    match s.pwr.bestSave with
    | some i => SMap.get 0 i.words ((off - Reg.PWR_QIMG) / 8)
    | none => 0
  else s.reg off

/-- R16: a write access that counts goes to its block's counter. -/
def State.judge (s : State) (off : Nat) (v : W64) : State :=
  s.count (violCounter off) (b2n (countedWrite (devRow off) (devView s off) v))

/-- A write that is ignored and counted, once and not again under R16. -/
def State.refuseWrite (s : State) (off : Nat) : State := s.count (violCounter off) 1

/-- The plain write of R14 and R16. -/
def State.plainWrite (s : State) (off : Nat) (v : W64) : State :=
  let s := s.judge off v
  match devRow off with
  | some r => if r.rw ||| r.w1c = 0 then s else s.setReg off (mergeWrite r (s.reg off) v)
  | none => s

end Sys2Proof.Machine
end

