-- ==== Sys2Proof/Machine/MemSys.lean ====
section
/-! DEFINITION. The memory system's registers (R265 to R281) and the stream ring's (R305, R310): allocating and freeing
regions, the flask split, core voltages, ring bounds and tail. -/
namespace Sys2Proof.Machine

/-! ## Regions (R85, R267 to R269) -/

/-- Bytes of footprint in each pseudo-channel, and its start (R267). -/
def State.footprint (s : State) (n : Nat) : Nat × Nat :=
  let units := (s.rgnLimit n - s.rgnBase n) / 65536
  let pl := s.reg (rgnOff Reg.MEM_RGN_PLACE n)
  (fld pl 21 0 * 512, units * (if fld pl 63 62 = 0 then 128 else 1024))

/-- Two HBM regions overlap in a pseudo-channel that both use (R267). -/
def State.footClash (s : State) (n k : Nat) : Bool :=
  let a := s.footprint n
  let b := s.footprint k
  (s.rgnStacks n).any (fun t => (s.rgnStacks k).contains t) && decide (a.1 < b.1 + b.2 ∧ b.1 < a.1 + a.2)

/-- The checks of R267, in order: `RSTAT`. -/
def State.rgnCheck (s : State) (n : Nat) : Nat :=
  let a := s.rgnBase n
  let b := s.rgnLimit n
  let mode := fld (s.reg (rgnOff Reg.MEM_RGN_PLACE n)) 63 62
  let others := (List.range 64).filter fun k => k ≠ n && s.rgnHeld k
  if b ≤ a then 2
  else if windowOf a = none ∨ windowOf a ≠ windowOf (b - 1) then 3
  else if others.any fun k => decide (a < s.rgnLimit k ∧ s.rgnBase k < b) then 4
  else match windowOf a with
    | some .hbm =>
      if mode = 3 ∨ (mode = 0 ∧ (b - a) % 0x40000 ≠ 0) then 5
      else if 0x60000000 < (s.footprint n).1 + (s.footprint n).2
          ∨ (s.rgnStacks n).any (fun k => !s.stackServing k)
          ∨ others.any (fun k => windowOf (s.rgnBase k) == some .hbm && s.footClash n k) then 6
      else 0
    | some (.flask c) => if flaskStart c + stepBytes * s.scratchSteps c < b then 7 else 0
    | _ => 0

/-- An HBM region that is allocated names the bytes at its places (R267, R270). -/
def State.bindPlaces (s : State) (n : Nat) : State :=
  if windowOf (s.rgnBase n) = some .hbm then
    { s with mem := s.mem.fromPlaces (s.rgnBase n) (s.rgnLimit n) (s.reg (rgnOff Reg.MEM_RGN_PLACE n)) s.epoch,
             epoch := s.epoch + 1 }
  else s

/-- Check and allocate. -/
def State.tryAlloc (s : State) (n : Nat) : State :=
  let off := rgnOff Reg.MEM_RGN_CTL n
  let r := s.rgnCheck n
  let t := (s.setField off 15 8 r).setField off 63 61 (if r = 0 then 4 else 0)
  if r = 0 then t.bindPlaces n else t

/-- The image after a rewrite of region n (R85): a local descriptor that names it becomes void, with the cause of a rewrite also
where it was void before. -/
def State.voidImg (s : State) (n : Nat) (d : W512) : W512 :=
  if imgDev d = s.devAddr ∧ imgRegion d = n then voidByRewrite d else d

/-- Work that has issued accesses goes on against the old range. -/
def Work.begun (w : Work) : Bool :=
  match w with
  | .compact _ _ _ _ _ _ (_ + 1) => true
  | .vrun _ _ _ _ _ (_ :: _) _ => true
  | _ => false

/-- Entries of queue q that have issued accesses: a product that is being recomputed or waits to push has too. -/
def Mould.begun (m : Mould) (q : Nat) (first : Bool) (w : Work) : Bool :=
  w.begun || (q == 0 && first && m.engWait != .none)

def QEnt.mapImages (f : W512 → W512) (e : QEnt) : QEnt :=
  match e with
  | .work n w => .work n (if w.begun then w else w.mapImages f)
  | e => e

/-- Queue q with every image changed that no access has used yet. -/
def Mould.mapQueue (f : W512 → W512) (m : Mould) (q : Nat) (l : List QEnt) : List QEnt :=
  match l with
  | .work n w :: t => (if m.begun q true w then .work n w else .work n (w.mapImages f)) :: t.map (QEnt.mapImages f)
  | l => l.map (QEnt.mapImages f)

def OpenSum.mapImages (f : W512 → W512) (o : OpenSum) : OpenSum :=
  { o with prov := o.prov.map fun p =>
      { p with work := p.work.mapImages f, rows := p.rows.map fun r => (r.1, f r.2.1, r.2.2) } }

/-- Every image that a mould holds. -/
def Mould.onImages (f : W512 → W512) (m : Mould) : Mould :=
  { m with
    d := m.d.map fun e => (e.1, f e.2)
    ckpt := m.ckpt.map fun c => { c with d := c.d.map fun e => (e.1, f e.2) }
    rows := m.rows.map fun r => { r with src := f r.src }
    acc := m.acc.map fun e => (e.1, { e.2 with sum := e.2.sum.map (OpenSum.mapImages f) })
    queues := m.queues.map fun e => (e.1, m.mapQueue f e.1 e.2)
    wait := match m.wait with
      | .room q e => .room q (e.mapImages f)
      | w => w }

def RiserCmd.begun (c : RiserCmd) : Bool := c.off != 0 || c.next != 0

/-- Every image in the module that no access has used yet. -/
def State.mapImages (s : State) (f : W512 → W512) : State :=
  { s with
    moulds := s.moulds.map fun e => (e.1, e.2.onImages f)
    risers := s.risers.map fun e => (e.1, { e.2 with
      queue := e.2.queue.map fun c => if c.begun then c else { c with work := c.work.mapImages f } })
    runner := { s.runner with
      colls := s.runner.colls.map fun c =>
        if c.phase = .slots ∨ c.phase = .headers then
          { c with dd := c.dd.map f, local_ := c.local_.map fun x => { x with ds := f x.ds } }
        else c
      steps := s.runner.steps.map fun r => if r.phase = .space then { r with x := f r.x } else r } }

/-- Free a region (R268): busy until its drain ends, on the range that it had; descriptors void. -/
def State.freeRegion (s : State) (n : Nat) : State :=
  let off := rgnOff Reg.MEM_RGN_CTL n
  { (s.setField off 63 61 2).mapImages (s.voidImg n) with
    draining := (n, s.rgnBase n, s.rgnLimit n, s.reg (rgnOff Reg.MEM_RGN_PLACE n)) :: s.draining.filter fun x => x.1 ≠ n }

/-- A write of `MEM_RGN_CTL` n (R267 to R269). -/
def State.rgnCtlWrite (s : State) (n : Nat) (v : W64) : State :=
  let off := rgnOff Reg.MEM_RGN_CTL n
  let cur := s.reg off
  let s := ((s.judge off v).setField off 7 6 (fld v 7 6)).setField off 3 0 (fld v 3 0)
  let want := bitOf v 63
  if bitOf cur 63 then (if want then s else s.freeRegion n)
  else if bitOf cur 62 then
    if want then (s.setField off 61 61 1).setField off 15 8 8 else s.setField off 61 61 0
  else if want then s.tryAlloc n
  else s

/-- A write of a region's base, limit or placement (R268). -/
def State.rgnWrite (s : State) (off : Nat) (v : W64) : State :=
  if s.rgnHeld ((off - 0x20000) / 32) then s.refuseWrite off else s.plainWrite off v

/-- Work that began before region n was freed still has accesses to make: it keeps an image of the region that was not voided. -/
def State.rgnInUse (s : State) (n : Nat) : Bool :=
  let has (d : W512) : Bool := namesRegion s n d
  s.moulds.any (fun e => e.2.queues.any fun q => q.2.zipIdx.any fun x => match x.1 with
    | .work _ w => e.2.begun q.1 (x.2 == 0) w && w.images.any has
    | _ => false)
  || s.risers.any (fun e => e.2.queue.any fun c => c.begun && c.work.images.any has)
  || s.runner.colls.any (fun c => c.phase != .done && (c.dd.any has || c.local_.any fun x => has x.ds))
  || s.runner.steps.any (fun r => (r.phase == .counts || r.phase == .rows) && has r.x)

/-- The drain of region n ends (R268 step 5): its HBM bytes stay where they are placed, and a latched allocation is then checked. -/
def State.rgnDrained (s : State) (n : Nat) : State :=
  let off := rgnOff Reg.MEM_RGN_CTL n
  if !bitOf (s.reg off) 62 || s.rgnInUse n then s
  else
    let pend := bitOf (s.reg off) 61
    let mem := match s.draining.find? fun x => x.1 == n with
      | some (_, a, b, pl) => if windowOf a = some .hbm then s.mem.toPlaces a b pl else s.mem
      | none => s.mem
    let s := { (s.setField off 63 61 0).setField off 15 8 1 with mem := mem, draining := s.draining.filter fun x => x.1 ≠ n }
    if pend then s.tryAlloc n else s

def execRegionAllocate (n : BitVec 6) (v : W64) (s : State) : Res := .next (s.rgnCtlWrite n.toNat (setFld v 63 63 1))
def execRegionFree (n : BitVec 6) (v : W64) (s : State) : Res := .next (s.rgnCtlWrite n.toNat (setFld v 63 63 0))
/-- A write that leaves `ALLOC` as it is (R269). -/
def execRegionHintChange (n : BitVec 6) (v : W64) (s : State) : Res :=
  .next (s.rgnCtlWrite n.toNat (setFld v 63 63 (b2n (s.rgnHeld n.toNat))))
def execRegionDrainComplete (n : BitVec 6) (s : State) : Res := .next (s.rgnDrained n.toNat)

/-! ## Flask split (R274, R275) -/

/-- A write of `MEM_FLASK_SPLIT` c (R274, R275): it replaces a waiting request. -/
def State.splitWrite (s : State) (c : Nat) (v : W64) : State :=
  let off := Reg.MEM_FLASK_SPLIT + 8 * c
  if 16 < fld v 4 0 then s.refuseWrite off
  else (((s.judge off v).setField off 4 0 (fld v 4 0)).setField off 16 16 1).splitApply c

def execFlaskSplitRequest (c : BitVec 2) (v : W64) (s : State) : Res := .next (s.splitWrite c.toNat v)
def execFlaskSplitApply (c : BitVec 2) (s : State) : Res := .next (s.splitApply c.toNat)

/-! ## Core voltage (R280, R281) -/

/-- Byte i of a temperature sample, in the layout of R442. -/
def tempAt (t : BitVec 192) (i : Nat) : Nat := t.toNat / 256 ^ i % 256

/-- The voltage of crucible c after a sample: flask byte 6 + c, stack bytes 10 + 2c and 11 + 2c (R280). -/
def State.thermStep (s : State) (t : BitVec 192) (c : Nat) : State :=
  let off := Reg.MEM_THERM_STATUS + 8 * c
  let fl := tempAt t (6 + c)
  let lo := tempAt t (10 + 2 * c)
  let hi := tempAt t (11 + 2 * c)
  let ft := s.field Reg.MEM_THERM_CFG 31 24
  let ht := s.field Reg.MEM_THERM_CFG 23 16
  let vset := s.field (Reg.MEM_VTARGET + 8 * c) 9 0
  let v := s.field off 25 16
  let cool := decide (fl + 3 ≤ ft ∧ lo + 3 ≤ ht ∧ hi + 3 ≤ ht)
  let hotNow := decide (ft + 5 ≤ fl ∨ ht + 5 ≤ lo ∨ ht + 5 ≤ hi)
  let held := hotNow || (s.pwr.hotOver.contains c && !cool)
  let hw := !s.modeBit 9 || held
  let v' :=
    if hw then
      if ft ≤ fl ∨ ht ≤ lo ∨ ht ≤ hi then max 620 (v - 10)
      else if cool then (if v < vset then min vset (v + 10) else v)
      else v
    else if v < vset then min vset (v + 100) else max vset (v - 100)
  let throt := hw && decide (v' < vset)
  let s := (((s.setField off 25 16 v').setField off 0 0 (b2n throt)).setField off 39 32 fl)
  let s := (s.setField off 47 40 lo).setField off 55 48 hi
  { s with pwr := { s.pwr with
      hotOver := if held && s.modeBit 9 then c :: s.pwr.hotOver.filter (· ≠ c) else s.pwr.hotOver.filter (· ≠ c) } }

/-- A write of a voltage set point or of the thermal thresholds; a value outside its range is ignored and counted (R281). -/
def State.thermWrite (s : State) (off : Nat) (v : W64) : State :=
  let bad :=
    if off = Reg.MEM_THERM_CFG then
      decide (fld v 23 16 < 70 ∨ 100 < fld v 23 16 ∨ fld v 31 24 < 70 ∨ 105 < fld v 31 24)
    else decide (fld v 9 0 < 620 ∨ 850 < fld v 9 0)
  if bad then s.refuseWrite off else s.plainWrite off v

/-- Scrubbing reads and corrects every SRAM and flask word (R382), and each keeps its value. By then the stacks have corrected a
number of errors that the manual leaves open (R260, log entry 74). -/
def execScrub (s : State) : Res :=
  let f := s.freshWord
  .next (f.2.setReg Reg.MEM_CNT_CORR (f.2.reg Reg.MEM_CNT_CORR + f.1))

/-! ## The stream ring's registers (R305, R310) -/

/-- A write of the ring's base or limit. While the stream is on and the ring is valid it is ignored; that such a write is also
counted, in `HOST_CNT_VIOL`, is the model's choice (log entry 72): R310 says only that it is ignored. -/
def State.ringConfig (s : State) (off : Nat) (v : W64) : State :=
  if s.ringOn && s.ringValid then s.refuseWrite off
  else
    let s := ((s.plainWrite off v).setReg Reg.RISER_SS_HEAD 0).setReg Reg.RISER_SS_TAIL 0
    settle { s with host := { s.host with ringUsed := 0 } }

/-- Advance the tail to the offset in [47:0]: from the current tail up to the head, in ring order (R305); a reserved bit counts and
does not stop the write (R16). -/
def State.ringTail (s : State) (x : W64) : State :=
  let v : W64 := BitVec.ofNat 64 (fld x 47 0)
  let size := s.ringSize
  let tail := (s.reg Reg.RISER_SS_TAIL).toNat
  let adv := if size = 0 then 0 else (v.toNat + size - tail) % size
  if size = 0 ∨ size ≤ v.toNat ∨ s.host.ringUsed < adv then s.refuseWrite Reg.RISER_SS_TAIL
  else
    let s := (s.judge Reg.RISER_SS_TAIL x).setReg Reg.RISER_SS_TAIL v
    settle { s with host := { s.host with ringUsed := s.host.ringUsed - adv } }

def execStreamRingConfig (limit : Bool) (v : W64) (s : State) : Res :=
  .next (s.ringConfig (if limit then Reg.RISER_SS_LIMIT else Reg.RISER_SS_BASE) v)
def execStreamTailWrite (v : W64) (s : State) : Res := .next (s.ringTail v)

end Sys2Proof.Machine
end

