-- ==== Sys2Proof/Machine/Fabric.lean ====
section
/-! DEFINITION. The gate-die fabric (R312 to R327, R337, R338, R347): port states and training, packets with their credits
and replays, routes and the down-link map, remote reads, and system time. -/
namespace Sys2Proof.Machine

/-! ## Topology (R315 to R317) -/

def addrSlot (a : Nat) : Nat := a / 4096 % 16
/-- Coordinate in dimension d: w, x, y, z. -/
def addrCo (a d : Nat) : Nat := bits a (11 - 3 * d) (9 - 3 * d)
def setCo (a d v : Nat) : Nat := putBits a (11 - 3 * d) (9 - 3 * d) v
def sameTray (a b : Nat) : Bool := a % 4096 == b % 4096

/-- The device and the port at the other end of port p of device a (R316, R317). -/
def State.peerOf (s : State) (a p : Nat) : Nat × Nat :=
  if p < 8 then ((addrSlot a + 1 + p) % 9 * 4096 + a % 4096, 7 - p)
  else
    let d := (p - 8) / 2
    let n := s.topo d
    if p % 2 = 0 then (setCo a d ((addrCo a d + 1) % n), p + 1)
    else (setCo a d ((addrCo a d + n - 1) % n), p - 1)

/-- Tray port from slot k to slot j. -/
def trayPort (k j : Nat) : Nat := (j + 8 - k) % 9

/-- Name of the link at port p of device a in the down-link map: a rail by its + end, a tray link by its lower slot. -/
def State.linkId (s : State) (a p : Nat) : Nat :=
  let q := s.peerOf a p
  if p < 8 then if addrSlot a < addrSlot q.1 then 16 * a + p else 16 * q.1 + q.2
  else if p % 2 = 0 then 16 * a + p else 16 * q.1 + q.2

/-- A port of a torus dimension of size 1 is never brought up (R314). -/
def State.portExists (s : State) (p : Nat) : Bool := p < 8 || decide (1 < s.topo ((p - 8) / 2))

/-! ## Routes (R322 to R324) -/

/-- Steps to go in dimension d from a to b by the shorter way, one list for each way when both are as short. -/
def State.railWays (s : State) (a b d : Nat) : List (List Nat) :=
  let n := s.topo d
  let f := (addrCo b d + n - addrCo a d) % n
  let up := List.replicate f (8 + 2 * d)
  let dn := List.replicate (n - f) (9 + 2 * d)
  if f = 0 then [[]] else if 2 * f < n then [up] else if n < 2 * f then [dn] else [up, dn]

/-- Ports taken from a, one after another, are all up. -/
def State.pathUp (s : State) (a : Nat) : List Nat → Bool
  | [] => true
  | p :: t => !s.runner.links.contains (s.linkId a p) && s.pathUp (s.peerOf a p).1 t

/-- Port lists of the rail phase from a towards the coordinates of b. -/
def State.railPaths (s : State) (a b : Nat) : List (List Nat) :=
  (List.range 4).foldl (fun ps d => ps.flatMap fun p => (s.railWays a b d).map fun w => p ++ w) [[]]

/-- Port lists from a to b over rail plane c, or through slot c within one tray. -/
def State.routesVia (s : State) (a b c : Nat) : List (List Nat) :=
  let pre := if addrSlot a = c then [] else [trayPort (addrSlot a) c]
  let post := if addrSlot b = c then [] else [trayPort c (addrSlot b)]
  (s.railPaths a b).map fun r => pre ++ r ++ post

/-- Some minimal or detour route from this device to b is up (R324). -/
def State.hasRoute (s : State) (b : Nat) : Bool :=
  b == s.devAddr || (List.range 9).any fun c => (s.routesVia s.devAddr b c).any fun r => s.pathUp s.devAddr r

/-! ## Ports (R313, R314, R320, R347) -/

namespace PortSt
abbrev down := 0
abbrev training := 1
abbrev up := 2
abbrev draining := 3
abbrev miscabled := 4
abbrev failed := 5
end PortSt

def State.portState (s : State) (p : Nat) : Nat := s.field (pstOff p) 2 0
def State.portPend (s : State) (p : Nat) : Bool := bitOf (s.reg (pstOff p)) 3

/-- Tell every device of a change of this device's links (R324), and note it. -/
def State.flood (s : State) (p : Nat) (up : Bool) : State :=
  let id := s.linkId s.devAddr p
  let rest := s.runner.links.filter (· ≠ id)
  let s := { s with runner := { s.runner with links := if up then rest else id :: rest, lsNum := s.runner.lsNum + 1 } }
  s.send (.linkState (BitVec.ofNat 16 s.devAddr) (s.runner.lsNum - 1) [(id, up)])

/-- A heat during which `HOLD` was set, or a follower not locked, is marked in its record (R337, R369). -/
def State.markTime (s : State) (lock hold : Bool) : State :=
  if s.heatRuns then
    { s with heats := { s.heats with held := s.heats.held || hold, noLock := s.heats.noLock || !lock } }
  else s

/-- A follower whose parent link goes down looks for another (R338). -/
def State.loseParent (s : State) (p : Nat) : State :=
  let s := { s with runner := { s.runner with adv := s.runner.adv.filter fun a => a.1 ≠ p } }
  let st := Reg.RUN_TIME_STATUS
  if bitOf (s.reg st) 1 && !bitOf (s.reg st) 0 && s.field st 11 8 == p then
    let s := ((s.markTime false true).setField st 1 1 0).setField st 2 2 1
    let b : List (Nat × Nat × Nat) := [(25, 1, p), (26, 1, s.field st 20 16)]
    (s.event 0x21 unitRunner ((24, 1, 2) :: b)).event 0x21 unitRunner ((24, 1, 3) :: b)
  else s

/-- A port changes state: the link event of R353; a port that leaves `UP` floods a message, and its packets wait no more. -/
def State.setPortState (s : State) (p v : Nat) : State :=
  let old := s.portState p
  if old = v then s
  else
    let s := s.setField (pstOff p) 2 0 v
    let r := s.reg (pstOff p)
    let s := s.event 0x20 (unitPort p)
      [(24, 1, v), (25, 1, old), (26, 2, fld r 63 48), (28, 1, fld r 47 44), (32, 2, fld r 43 32)]
    if old = PortSt.up then (s.flood p false).loseParent p
    else if v = PortSt.up then s.flood p true
    else s

/-- Flits of a packet in transit drain from the buffer of the port that it came in by: its credits return (R319). -/
def State.drainFlits (s : State) (src : Option (Nat × Nat × Nat × Nat)) : State :=
  match src with
  | none => s
  | some (p, vc, r, sh) =>
    let q := s.port p
    (s.setPort p { q with rxHeld := SMap.set 0 q.rxHeld vc (SMap.get 0 q.rxHeld vc - r), rxShared := q.rxShared - sh }).send
      (.credits p vc r sh)

/-- The link state of a port is lost: what waits to leave by it is discarded, and sent again end to end (R321, R324). -/
def State.clearPort (s : State) (p : Nat) : State :=
  let w := (s.port p).waiting
  w.foldl (fun s x => match x.src with
    | some y => if y.1 = p then s else s.drainFlits (some y)
    | none => s) (s.setPort p Port.reset)

/-- Training starts (R313 step 1). -/
def State.portTrain (s : State) (p : Nat) : State :=
  if s.portExists p then (s.clearPort p).setPortState p PortSt.training else s

/-- A write of `ENABLE` (R313, R347, R395). -/
def State.portWrite (s : State) (p : Nat) (en : Bool) : State :=
  let st := s.portState p
  let s := s.setField (pctlOff p) 0 0 (b2n en)
  if en then
    if st = PortSt.draining then s.setField (pstOff p) 3 3 1
    else if st = PortSt.up ∨ st = PortSt.training then s
    else s.portTrain p
  else if st = PortSt.up then s.setPortState p PortSt.draining
  else if st = PortSt.draining then s.setField (pstOff p) 3 3 0
  else s.setPortState p PortSt.down

/-- A draining port has nothing left to send: `DOWN`, or trained again if an enable is latched. -/
def State.portDrained (s : State) (p : Nat) : State :=
  let q := s.port p
  if s.portState p ≠ PortSt.draining ∨ q.waiting ≠ [] ∨ q.retry ≠ [] then s
  else
    let pend := s.portPend p
    let s := (s.setPortState p PortSt.down).setField (pstOff p) 3 3 0
    if pend then s.portTrain p else s

/-- Flits reserved for each virtual channel and shared by all of a port (R319). -/
def vcFlits : Nat := 128
def sharedFlits : Nat := 7168

/-- Training ends (R313 steps 5 to 7, R314): a peer that breaks R316 or R317 leaves the port `MISCABLED`. The lane skew measured is
kept for R337. -/
def State.portTrained (s : State) (p peer peerPort rtt : Nat) (skew : BitVec 32) : State :=
  if s.portState p ≠ PortSt.training then s
  else
    let s := (s.setField (pstOff p) 63 48 peer).setField (pstOff p) 47 44 peerPort
    if s.peerOf s.devAddr p ≠ (peer, peerPort) then s.setPortState p PortSt.miscabled
    else
      let s := s.setField (pstOff p) 43 32 rtt
      let s := s.setPort p { Port.reset with skew := skew, reserved := (List.range 8).map fun v => (v, vcFlits), shared := sharedFlits }
      s.setPortState p PortSt.up

/-- A port fails (R320, R383): packets not yet acknowledged are sent again end to end (R321). -/
def State.portFail (s : State) (p mech : Nat) : State :=
  if s.portState p ≠ PortSt.up ∧ s.portState p ≠ PortSt.draining ∧ s.portState p ≠ PortSt.training then s
  else
    let r := s.reg (pstOff p)
    let s := s.raiseFault { mech := mech, unit := unitPort p, cls := .degraded, action := 4,
                            detail := fld r 63 48 + fld r 47 44 * 2 ^ 64 }
    ((s.clearPort p).setField (pstOff p) 3 3 0).setPortState p PortSt.failed

def execPortEnable (p : BitVec 4) (s : State) : Res := .next (s.portWrite p.toNat true)
def execPortDrain (p : BitVec 4) (s : State) : Res := .next (s.portWrite p.toNat false)
def execPortDrainComplete (p : BitVec 4) (s : State) : Res := .next (s.portDrained p.toNat)
def execPortTrainingComplete (p : BitVec 4) (peerDev : W16) (peerPort : BitVec 4) (times : LinkTimes)
    (s : State) : Res :=
  .next (s.portTrained p.toNat peerDev.toNat peerPort.toNat times.rtt.toNat times.skew)
/-- A training step misses its bound: the port goes to `DOWN` with a link event (R313), and the training failure is a detected fault
(R18, R382); that the state is R313's and not the `FAILED` of R382 is the model's choice (log entry 73). -/
def execPortTrainingTimeout (p : BitVec 4) (s : State) : Res :=
  .next (if s.portState p.toNat = PortSt.training then
      let r := s.reg (pstOff p.toNat)
      (s.raiseFault { mech := 0x0C, unit := unitPort p.toNat, cls := .degraded, action := if s.modeBit 8 then 0 else 5,
                      detail := fld r 63 48 + fld r 47 44 * 2 ^ 64 }).setPortState p.toNat PortSt.down
    else s)
/-- One second after a failed training, or after a failure: hardware link recalibration tries again (R313, R320, R400). -/
def execPortRetryTimer (p : BitVec 4) (s : State) : Res :=
  .next (if !s.modeBit 8 && bitOf (s.reg (pctlOff p.toNat)) 0
      && (s.portState p.toNat == PortSt.down || s.portState p.toNat == PortSt.failed) then s.portTrain p.toNat else s)

/-! ## Packets (R318 to R323) -/

/-- Flits of a packet: its bytes in units of 32 B. -/
def pktFlits (k : Packet) : Nat := cdiv k.body.length 32

/-- Flits that a retry buffer of 256 KiB holds (R320). -/
def retryFlits : Nat := 8192

def Port.credit (q : Port) (vc : Nat) : Nat := SMap.get 0 q.reserved vc

/-- Transmit the waiting packets that credits and the retry buffer cover, in order: reserved credits first, then shared ones. Each
comes with the buffer space that it leaves. -/
def Port.pump (p : Nat) : List Waiting → Port → Port × List (FabMsg × Option (Nat × Nat × Nat × Nat))
  | [], q => (q, [])
  | w :: t, q =>
    let n := pktFlits w.pkt
    let r := min n (q.credit w.vc)
    if n ≤ q.credit w.vc + q.shared ∧ totalBy pktFlits q.retry + n ≤ retryFlits then
      let k := { w.pkt with linkSeq := q.txSeq, vc := BitVec.ofNat 3 w.vc }
      let x := Port.pump p t { q with
        reserved := SMap.set 0 q.reserved w.vc (q.credit w.vc - r), shared := q.shared - (n - r), txSeq := q.txSeq + 1,
        retry := q.retry ++ [k] }
      (x.1, (FabMsg.packet p k, w.src) :: x.2)
    else
      let x := Port.pump p t q
      ({ x.1 with waiting := w :: x.1.waiting }, x.2)

/-- Send what can be sent on port p. -/
def State.pumpPort (s : State) (p : Nat) : State :=
  let q := s.port p
  let x := Port.pump p q.waiting { q with waiting := [] }
  x.2.foldl (fun s m => (s.send m.1).drainFlits m.2) (s.setPort p x.1)

/-- A packet joins those that wait for credits on port p. -/
def State.enqueuePkt (s : State) (p : Nat) (w : Waiting) : State :=
  let q := s.port p
  (s.setPort p { q with waiting := q.waiting ++ [w] }).pumpPort p

/-- Virtual channel of a packet on port p of this device (R318, R322): VC1 before the dateline of its ring, VC2 from there;
VC3 for the last tray hop. Class B uses the four channels above. -/
def State.vcOf (s : State) (p : Nat) (k : Packet) : Nat :=
  let me := s.devAddr
  let base := if k.kind.classB then 4 else 0
  base + (if p < 8 then 3
    else
      let d := (p - 8) / 2
      let c := addrCo me d
      let o := addrCo k.src.toNat d
      let n := s.topo d
      let past := if p % 2 = 0 then decide (c < o) || c + 1 == n else decide (o < c) || c == 0
      if past then 2 else 1)

/-- Free credits that a packet would find on a channel of port p. -/
def State.freeCredits (s : State) (p vc : Nat) : Nat := (s.port p).credit vc + (s.port p).shared

/-- Next port of a packet in transit (R322, R323): the first dimension that differs, then the tray hop; of two ways as short,
the one with more free credits, the lower port on a tie. -/
def State.nextPort (s : State) (k : Packet) : Nat :=
  let me := s.devAddr
  let b := k.dest.toNat
  match (List.range 4).find? fun d => addrCo me d != addrCo b d with
  | some d =>
    match (s.railWays me b d).filterMap List.head? with
    | [p, q] => if s.freeCredits p (s.vcOf p k) < s.freeCredits q (s.vcOf q k) then q else p
    | p :: _ => p
    | [] => 8 + 2 * d
  | none => trayPort (addrSlot me) (addrSlot b)

/-- A packet in transit: discarded when its next link is down (R324). -/
def State.forward (s : State) (k : Packet) (src : Option (Nat × Nat × Nat × Nat)) : State :=
  let p := s.nextPort k
  if s.portState p ≠ PortSt.up then s.drainFlits src else s.enqueuePkt p ⟨s.vcOf p k, k, src⟩

/-! ## This device's own packets (R318, R321 to R324) -/

/-- The channel of the first hop of a route: VC0 for a tray hop before anything else. -/
def State.firstVc (s : State) (k : Packet) (path : List Nat) : Nat :=
  match path with
  | p :: _ :: _ => if p < 8 then (if k.kind.classB then 4 else 0) else s.vcOf p k
  | p :: [] => s.vcOf p k
  | [] => 0

/-- A route from this device whose links are all up. -/
def State.routeUp (s : State) (path : List Nat) : Bool :=
  match path with
  | p :: _ => s.portState p == PortSt.up && s.pathUp s.devAddr path
  | [] => false

/-- Of two routes, the one whose first port has more free credits; on a tie the lower port (R323). -/
def State.betterRoute (s : State) (k : Packet) (a b : List Nat) : List Nat :=
  match a, b with
  | p :: _, q :: _ =>
    let x := s.freeCredits p (s.firstVc k a)
    let y := s.freeCredits q (s.firstVc k b)
    if x < y ∨ (x = y ∧ q < p) then b else a
  | _, _ => a

def State.bestRoute (s : State) (k : Packet) : List (List Nat) → Option (List Nat)
  | [] => none
  | r :: t => match s.bestRoute k t with
    | some x => some (s.betterRoute k r x)
    | none => some r

/-- The route that the source chooses (R323, R324): among the minimal ones that are up, with the tray hop before or after the rails and
either way round where both are as short; else the detour over the lowest slot c that is up. -/
def State.chooseRoute (s : State) (k : Packet) : Option (List Nat) :=
  let me := s.devAddr
  let b := k.dest.toNat
  let via (c : Nat) : List (List Nat) := (s.routesVia me b c).filter s.routeUp
  match s.bestRoute k (via (addrSlot b) ++ via (addrSlot me)) with
  | some r => some r
  | none => ((List.range 9).filterMap fun c =>
      if c = addrSlot b ∨ c = addrSlot me then none else s.bestRoute k (via c)).head?

/-- Send a packet of this device; with no route up it stays unacknowledged (R321). -/
def State.sendPacket (s : State) (k : Packet) : State :=
  match s.chooseRoute k with
  | some (p :: t) => s.enqueuePkt p ⟨s.firstVc k (p :: t), k, none⟩
  | _ => s

/-- Members of a group other than this device. -/
def State.others (s : State) (grp : Nat) : List W16 :=
  (((s.groupMembers grp).getD []).filter (· ≠ s.devAddr)).map fun a => BitVec.ofNat 16 a

/-- The member of a rank. -/
def State.rankDev (s : State) (grp r : Nat) : List W16 :=
  match ((s.groupMembers grp).getD [])[r]? with
  | some a => [BitVec.ofNat 16 a]
  | none => []

/-- Neighbours on ports that are up. -/
def State.neighbours (s : State) : List W16 :=
  ((List.range 16).filter fun p => s.portState p == PortSt.up).map fun p => BitVec.ofNat 16 (s.peerOf s.devAddr p).1

/-- Devices to which a message goes. -/
def FabMsg.dests (s : State) (m : FabMsg) : List W16 :=
  match m with
  | .ack d _ => [d]
  | .readData d _ _ => [d]
  | .readReq d _ _ _ => [d]
  | .linkState _ _ _ => s.neighbours
  | .timeAdv p _ _ _ _ => [BitVec.ofNat 16 (s.peerOf s.devAddr p).1]
  | .header g _ _ _ => s.others g
  | .codes g _ o _ _ => s.rankDev g o
  | .align g _ _ _ => s.others g
  | .window g _ o _ => s.rankDev g o
  | .results g _ d _ _ _ => s.rankDev g d
  | .counts r _ _ => match s.findStep r with
    | some x => s.others x.grp
    | none => []
  | .row _ d _ _ _ _ _ => [d]
  | .returned _ d _ _ => [d]
  | .launch g _ _ _ => s.others g
  | .fetch _ _ _ d _ _ _ _ _ => [d]
  | .fetchReq d _ _ _ => [d]
  | .mismatch d _ _ _ => [d]
  | .error d => [d]
  | .packet _ _ | .nak _ _ | .linkAck _ _ | .credits _ _ _ _ => []

/-- The kind of the packets that carry a message; none for what a link itself sends. -/
def FabMsg.kind : FabMsg → Option MsgKind
  | .ack _ _ => some .ack
  | .readData _ _ _ => some .readData
  | .readReq _ _ _ _ => some .request
  | .linkState _ _ _ => some .linkState
  | .timeAdv _ _ _ _ _ => some .counter
  | .header _ _ _ _ => some .header
  | .codes _ _ _ _ _ => some .exponent
  | .align _ _ _ _ => some .align
  | .window _ _ _ _ => some .window
  | .results _ _ _ _ _ _ => some .gather
  | .counts _ _ _ => some .request
  | .row _ _ _ _ _ _ _ => some .row
  | .returned _ _ _ _ => some .returned
  | .launch _ _ _ _ => some .request
  | .fetch _ _ _ _ _ _ _ _ _ => some .readData
  | .fetchReq _ _ _ _ => some .request
  | .mismatch _ _ _ _ => some .request
  | .error _ => some .readData
  | .packet _ _ | .nak _ _ | .linkAck _ _ | .credits _ _ _ _ => none

/-- Payload bytes of a message, where R331, R336 and the rows themselves give them; else one packet's worth at most that the manual
does not state (log entry 51). -/
def FabMsg.size : FabMsg → Nat
  | .readData _ _ data => data.length
  | .codes _ _ _ _ cs => 2 * cs.length
  | .align _ _ _ cs => 2 * cs.length
  | .window _ _ _ ws => 12 * ws.length
  | .results _ _ _ _ _ bytes => bytes
  | .row _ _ _ _ _ cs sc => 8 + cs.length + sc.length
  | .returned _ _ _ cs => 8 + cs.length
  | .fetch _ _ _ _ entries recs _ _ _ => 16 * entries.length + totalBy List.length recs
  | .ack _ _ => 0
  | .readReq _ _ _ _ => Config.msgSize 0 % 513
  | .counts _ _ _ => Config.msgSize 1 % 513
  | .launch _ _ _ _ => Config.msgSize 2 % 513
  | .fetchReq _ _ _ _ => Config.msgSize 3 % 513
  | .mismatch _ _ _ _ => Config.msgSize 4 % 513
  | .header _ _ _ _ => Config.msgSize 5 % 513
  | .linkState _ _ _ => Config.msgSize 6 % 513
  | .timeAdv _ _ _ _ _ => Config.msgSize 7 % 513
  | .error _ => Config.msgSize 8 % 513
  | .packet _ _ | .nak _ _ | .linkAck _ _ | .credits _ _ _ _ => 0

/-- Payload lengths of the packets of n bytes: 512 B each but the last (R318). -/
def packetLens (n : Nat) : List Nat := (List.range (max 1 (cdiv n 512))).map fun i => min 512 (n - 512 * i)

/-- Make and send the packets of one message for one device: each takes the next sequence number and is kept until it is acknowledged,
an acknowledgement excepted (R321). -/
def State.sendTo (s : State) (i : Nat) (kind : MsgKind) (m : FabMsg) (d : W16) : State :=
  if d.toNat = s.devAddr ∨ s.runner.down.contains d.toNat then s
  else (packetLens m.size).foldl (fun s n =>
    let q := SMap.get 0 s.runner.txSeqs d.toNat
    let seq : W64 := match m with
      | .ack _ x => x
      | _ => BitVec.ofNat 64 q
    let body := (List.range (32 * (1 + cdiv n 32))).map (Config.packetByte d.toNat q)
    let k : Packet := ⟨d, BitVec.ofNat 16 s.devAddr, kind, seq, 0, 0, body, crc32c body⟩
    let s := if kind = .ack then s else { s with runner := { s.runner with
      txSeqs := SMap.set 0 s.runner.txSeqs d.toNat (q + 1), unacked := s.runner.unacked ++ [⟨k, i, s.cnt⟩] } }
    s.sendPacket k) s

/-- Form packets of every message of this device that has not yet been made into packets (R318): what `Runner.out` lists from `txNext`
on, in order. -/
def State.sendMessages (s : State) : State :=
  let n := s.runner.out.length
  let s' := (s.runner.out.zipIdx.drop s.runner.txNext).foldl (fun s' m => match m.1.kind with
    | some k => (m.1.dests s').foldl (fun s' d => s'.sendTo m.2 k m.1 d) s'
    | none => s') s
  { s' with runner := { s'.runner with txNext := n } }

/-! ## Arrivals (R318 to R321) -/

/-- A packet for this device (R321): acknowledged; a duplicate is discarded. An acknowledgement releases the packet that it names, and
what waited for it goes on. -/
def State.consume (s : State) (k : Packet) : State :=
  if k.kind = .ack then
    settle { s with runner := { s.runner with
      unacked := s.runner.unacked.filter fun u => ¬(u.pkt.dest = k.src ∧ u.pkt.seq = k.seq) } }
  else
    let s := s.send (.ack k.src k.seq)
    if s.runner.received.contains (k.src, k.seq) then s
    else { s with runner := { s.runner with received := s.runner.received ++ [(k.src, k.seq)] } }

/-- A fabric packet arrives (R318 to R320): a bad CRC is counted, reported and answered with a negative acknowledgement, and
every later packet is discarded until the replay. Its flits take reserved space of their channel first, then shared space, as the
sender's credits did; they drain when it is consumed or has left. -/
def State.packetIn (s : State) (p : Nat) (k : Packet) : State :=
  if s.portState p ≠ PortSt.up ∧ s.portState p ≠ PortSt.draining then s
  else
    let q := s.port p
    if crc32c k.body ≠ k.crc then
      let r := s.reg (pstOff p)
      let s := (s.count (Reg.RUN_PORT_CNT + 8 * p) 1).raiseFault
        { mech := 8, unit := unitPort p, cls := .masked, action := 1, detail := fld r 63 48 + fld r 47 44 * 2 ^ 64 }
      s.send (.nak p q.rxSeq)
    else if k.linkSeq ≠ q.rxSeq then s
    else
      let vc := k.vc.toNat
      let r := min (pktFlits k) (vcFlits - SMap.get 0 q.rxHeld vc)
      let sh := pktFlits k - r
      let s := (s.setPort p { q with rxSeq := q.rxSeq + 1, rxHeld := SMap.set 0 q.rxHeld vc (SMap.get 0 q.rxHeld vc + r),
                                     rxShared := q.rxShared + sh }).send (.linkAck p k.linkSeq)
      if k.dest.toNat = s.devAddr then (s.drainFlits (some (p, vc, r, sh))).consume k
      else s.forward k (some (p, vc, r, sh))

/-- Packets of the retry buffer from link sequence number `q` on. -/
def retryFrom (q : BitVec 12) (l : List Packet) : List Packet := l.dropWhile fun k => k.linkSeq != q

/-- A cumulative acknowledgement of every packet before link sequence number `n` (R320). -/
def Port.acked (q : Port) (n : BitVec 12) : Port :=
  let rest := if n = q.txSeq then [] else retryFrom n q.retry
  if n ≠ q.txSeq ∧ rest = [] then q
  else { q with retry := rest, replays := if rest.length = q.retry.length then q.replays else 0 }

/-- A negative acknowledgement (R320): the packets before it were received; the rest is sent again. Eight replays of one packet
that fail, or more than 1,000 in one millisecond, fail the port. -/
def State.linkNak (s : State) (p : Nat) (n : BitVec 12) : State :=
  let q := s.port p
  let rest := retryFrom n q.retry
  if rest = [] ∨ (s.portState p ≠ PortSt.up ∧ s.portState p ≠ PortSt.draining) then s
  else
    let again := (match q.retry.head? with
      | some k => k.linkSeq == n
      | none => false) && q.replays != 0
    let fresh := decide (q.msStart.toNat + 1000000 ≤ s.cnt.toNat) || q.replaysMs == 0
    let q := { q with retry := rest, replays := if again then q.replays + 1 else 1,
                      replaysMs := if fresh then 1 else q.replaysMs + 1, msStart := if fresh then s.cnt else q.msStart }
    if 8 < q.replays ∨ 1000 < q.replaysMs then (s.setPort p q).portFail p 8
    else rest.foldl (fun s k => s.send (.packet p k)) (s.setPort p q)

/-- Credits return with the link's cumulative acknowledgement (R319, R320; log entry 51): never more than the buffer holds. -/
def State.creditIn (s : State) (p vc r sh : Nat) (ack : BitVec 12) : State :=
  let q := s.port p
  if s.portState p ≠ PortSt.up ∧ s.portState p ≠ PortSt.draining then s
  else (s.setPort p { q.acked ack with
    reserved := SMap.set 0 q.reserved vc (min vcFlits (q.credit vc + r)), shared := min sharedFlits (q.shared + sh) }).pumpPort p

def execPacketArrival (p : BitVec 4) (pkt : Packet) (s : State) : Res := .next (s.packetIn p.toNat pkt)
def execLinkNak (p : BitVec 4) (seq : BitVec 12) (s : State) : Res := .next (s.linkNak p.toNat seq)
def execCreditReturn (p : BitVec 4) (vc : BitVec 3) (flits : Credits) (ack : BitVec 12) (s : State) : Res :=
  .next (s.creditIn p.toNat vc.toNat flits.reserved.toNat flits.shared.toNat ack)

/-- A port failure is found (R320). -/
def execPortFailure (p : BitVec 4) (why : PortFault) (s : State) : Res :=
  let q := s.port p.toNat
  .next (match why with
    | .replays => if 8 ≤ q.replays then s.portFail p.toNat 8 else s
    | .replayRate => if 1000 < q.replaysMs then s.portFail p.toNat 8 else s
    | .fecLock => s.portFail p.toNat 8)

/-! ## End to end (R321, R324, R325) -/

/-- A packet unacknowledged for 20 µs is sent again over a route that is up, and counted. -/
def execE2eResend (dest : W16) (seq : W64) (s : State) : Res :=
  .next (match s.runner.unacked.find? fun u => u.pkt.dest == dest && u.pkt.seq == seq with
    | some u =>
      if u.stamp.toNat + 20000 ≤ s.cnt.toNat && (s.chooseRoute u.pkt).isSome then
        let s := { s with runner := { s.runner with
          unacked := s.runner.unacked.map fun x => if x = u then { x with stamp := s.cnt } else x } }
        (s.count Reg.RUN_CNT_REROUTE 1).sendPacket u.pkt
      else s
    | none => s)

/-- A link-state message enters the map and is passed on; a device to which a route is up again can be reached. -/
def State.takeLinks (s : State) (src : W16) (num : W64) (links : List (Nat × Bool)) : State :=
  let map := links.foldl (fun l e => if e.2 then l.filter (· ≠ e.1) else e.1 :: l.filter (· ≠ e.1)) s.runner.links
  let s := { s with runner := { s.runner with
    links := map, lsSeen := (src, num) :: s.runner.lsSeen.filter fun e => e.1 ≠ src } }
  let s := { s with runner := { s.runner with down := s.runner.down.filter fun d => !s.hasRoute d } }
  s.send (.linkState src num links)

/-- A link-state message of a device is taken once. -/
def execLinkStateMessage (src : W16) (num : W64) (links : List (Nat × Bool)) (s : State) : Res :=
  .next (match s.runner.lsSeen.find? (fun e => e.1 == src) with
    | some (_, n) => if num.toNat ≤ n.toNat then s else s.takeLinks src num links
    | none => s.takeLinks src num links)

/-- A destination cannot be reached (R325): transfers to it complete with error responses, and a fault event names it. -/
def State.unreachable (s : State) (d : Nat) : State :=
  if s.runner.down.contains d then s
  else
    let s := { s with runner := { s.runner with
      down := s.runner.down ++ [d], unacked := s.runner.unacked.filter fun u => u.pkt.dest.toNat ≠ d } }
    let s := s.raiseFault { mech := 9, unit := unitRunner, cls := .degraded, action := 0, detail := d }
    let names (g : Nat) : Bool := ((s.groupMembers g).getD []).contains d
    let s := (s.runner.colls.filter fun c => names c.grp).foldl (fun s c => c.fail s) s
    let s := (s.runner.steps.filter fun r => names r.grp).foldl (fun s r => r.fail s) s
    settle s

def execDestinationUnreachable (dev : W16) (s : State) : Res := .next (s.unreachable dev.toNat)

/-- A remote read request (R83, R262, R327): bytes outside the owner's region read as zero, counted once. A part behind the wrapper of
a fenced stack is answered with an error response (R17, R325). -/
def execRemoteReadRequest (src : W16) (region : BitVec 6) (addr : BitVec 48) (len : BitVec 10) (s : State) : Res :=
  let n := region.toNat
  let inside (a : Nat) : Bool := s.rgnAlloc n && decide (s.rgnBase n ≤ a ∧ a < s.rgnLimit n) && (match windowOf a with
    | some .hbm => true
    | some (.flask _) => true
    | _ => false)
  let as := (List.range (min 512 len.toNat)).map fun i => addr.toNat + i
  let s' := s.count Reg.MEM_CNT_VIOL (b2n (as.any fun a => !inside a))
  .next (s'.send (if as.any fun a => inside a && s.addrErrs a then .error src
    else .readData src addr.toNat (as.map fun a => if inside a then s.mem.get a else 0)))

/-! ## Time (R11, R337, R338) -/

/-- A time event (R353). -/
def State.timeEvent (s : State) (kind kept : Nat) : State :=
  s.event 0x21 unitRunner [(24, 1, kind), (25, 1, s.field Reg.RUN_TIME_STATUS 11 8),
    (26, 1, s.field Reg.RUN_TIME_STATUS 20 16), (28, 2, kept)]

/-- This device is set as time master. -/
def State.masterRole (s : State) : Bool := let r := s.field Reg.RUN_TIME_CFG 1 0; r == 1 || r == 2

/-- `MASTER`, `CONFLICT`, `LOCK`, `HOLD`, parent and depth. -/
def State.setTime (s : State) (master conflict lock hold : Bool) (parent depth : Nat) : State :=
  (s.markTime lock hold).setReg Reg.RUN_TIME_STATUS (BitVec.ofNat 64 (depth * 2 ^ 16 + parent * 2 ^ 8 + 8 * b2n conflict + 4 * b2n hold + 2 * b2n lock
    + b2n master))

/-- A write of `ROLE`. -/
def State.roleWrite (s : State) (v : W64) : State :=
  let s := s.plainWrite Reg.RUN_TIME_CFG v
  if s.masterRole then s.setTime true false true false 0 0
  else if bitOf (s.reg Reg.RUN_TIME_STATUS) 0 then
    { s.setTime false false false false 0 31 with runner := { s.runner with masterSeen := s.cnt, noMaster := false } }
  else s

/-- What counts as a parent: what a neighbour on an `UP` port advertises, but for one that follows this device; and where this device
yields its role, only what follows the lowest master (R337). -/
def State.parents (s : State) : List (Nat × Nat × Nat) :=
  let l := s.runner.adv.filter fun a => a.2.2 ≠ s.devAddr
  if s.masterRole then l.filter fun a => l.all fun x => decide (a.2.2 ≤ x.2.2) else l

/-- The best of the parents: least depth, then lowest port. -/
def State.bestParent (s : State) : Option (Nat × Nat × Nat) :=
  s.parents.foldl (fun b a =>
    if s.portState a.1 ≠ PortSt.up then b
    else match b with
      | some x => if a.2.1 < x.2.1 ∨ (a.2.1 = x.2.1 ∧ a.1 < x.1) then some a else b
      | none => some a) none

/-- Slew the counter towards an offset, in ns: by one count in 10 µs at most, which is 100 ppm (R338, R362, log entry 52). -/
def State.slewBy (s : State) (ns : Int) : State :=
  if ns = 0 then { s with runner := { s.runner with slew := 0 } }
  else if s.cnt.toNat < s.runner.slewAt.toNat + 10000 then s
  else { s with runner := { s.runner with slew := if 0 < ns then -1 else 1, slewAt := s.cnt } }

/-- A follower takes the exchange of its parent: the first lock may set the counter forward, never backwards (R11); later
ones slew it; lock and `HOLD` as R338 says. -/
def State.follow (s : State) (a : Nat × Nat × Nat) (offset : BitVec 32) (conflict : Bool) : State :=
  let st := Reg.RUN_TIME_STATUS
  let locked := bitOf (s.reg st) 1
  let depth := min 31 (a.2.1 + 1)
  let s := s.setReg Reg.RUN_TIME_OFFSET (offset.setWidth 64)
  let ns := offset.toInt / 16
  let s := s.setTime false conflict true false a.1 depth
  let s := if s.runner.everLocked ∨ 0 ≤ ns then s.slewBy ns else { s with cnt := s.cnt - BitVec.ofInt 64 ns }
  let s := { s with runner := { s.runner with everLocked := true, masterSeen := s.cnt, noMaster := false } }
  if locked then s else s.timeEvent 1 0

/-- The offset of this counter from a neighbour's in units of 1/16 ns, from four timestamps in those units: the neighbour's sending and
this device's receipt, this device's sending and the neighbour's receipt, less the lane skew (R337; log entry 52). -/
def exchangeOffset (t1 t2 t3 t4 : W64) (skew : BitVec 32) : BitVec 32 :=
  BitVec.ofInt 32 (((t2.toInt - t1.toInt) - (t4.toInt - t3.toInt)) / 2 - skew.toInt)

/-- What this device advertises on a port: its depth and the master that it follows or is. -/
def State.advertise (s : State) (p : Nat) : State :=
  let st := s.reg Reg.RUN_TIME_STATUS
  let master := if bitOf st 0 then s.devAddr else match s.runner.adv.find? fun a => a.1 == fld st 11 8 with
    | some a => a.2.2
    | none => 0
  s.send (.timeAdv p (fld st 20 16) master (bitOf st 0 || bitOf st 1) s.cnt)

/-- An exchange of timestamps on port p (R337): this device's advertisement, the neighbour's depth and the master that it follows, and
the measured offset. -/
def State.timeExchange (s : State) (p depth master : Nat) (has : Bool) (x : Stamps) : State :=
  if s.portState p ≠ PortSt.up then s
  else
    let s := s.advertise p
    let offset := exchangeOffset x.t1 x.t2 x.t3 x.t4 (s.port p).skew
    let rest := s.runner.adv.filter fun a => a.1 ≠ p
    let s := { s with runner := { s.runner with adv := if has && depth < 31 then rest ++ [(p, depth, master)] else rest } }
    let lower := s.runner.adv.filter fun a => a.2.2 < s.devAddr
    if s.masterRole && lower.isEmpty then
      if bitOf (s.reg Reg.RUN_TIME_STATUS) 0 then s else s.setTime true false true false 0 0
    else
      match s.bestParent with
      | some a =>
        let fresh := s.masterRole && !bitOf (s.reg Reg.RUN_TIME_STATUS) 3
        let t := if a.1 = p then s.follow a offset s.masterRole
          else if s.masterRole then s.setTime false true (bitOf (s.reg Reg.RUN_TIME_STATUS) 1) false a.1 (min 31 (a.2.1 + 1)) else s
        if fresh then t.timeEvent 4 a.2.2 else t
      | none => s

def execTimeExchange (p : BitVec 4) (depth : BitVec 5) (master : W16) (hasMaster : Bool) (stamps : Stamps)
    (s : State) : Res :=
  .next (s.timeExchange p.toNat depth.toNat master.toNat hasMaster stamps)

/-- 20 ms without a master (R337): the counter runs free, `LOCK` reads 0 and `DEPTH` 31, and a time event is posted once. -/
def execNoMasterTimeout (s : State) : Res :=
  .next (if s.masterRole || s.runner.noMaster || s.cnt.toNat < s.runner.masterSeen.toNat + 20000000 then s
    else
      let locked := bitOf (s.reg Reg.RUN_TIME_STATUS) 1
      let s := s.setTime false false false false 0 31
      let s := { s with runner := { s.runner with noMaster := true, slew := 0 } }
      (if locked then s.timeEvent 2 0 else s).timeEvent 5 0)

end Sys2Proof.Machine
end

