-- ==== Sys2Proof/Machine/Sessions.lean ====
section
/-! DEFINITION. The host port below its commands (R349, R351, R354, R355, R359, R362, R391): frames, the opening and the end
of sessions, the lease, the host link and the IEEE 1588 clock. -/
namespace Sys2Proof.Machine

/-! ## Lease (R359) -/

/-- Holder of the lease (0: none). -/
def State.leaseSid (s : State) : Nat := s.field Reg.HOST_LEASE 63 32
def State.leaseEnd (s : State) : Nat := (s.reg Reg.HOST_LEASE_EXP).toNat

/-- The lease is held at this moment: it ends at its expiry. -/
def State.leaseHeld (s : State) : Bool := s.leaseSid != 0 && decide (s.cnt.toNat < s.leaseEnd)

/-- The session holds the authority (R359: a stamp at or after the expiry comes from a non-holder). -/
def State.holds (s : State) (sid : W32) : Bool := s.leaseHeld && s.leaseSid == sid.toNat

/-- A lease event (R353): the holder after the change, the reason, the expiry. -/
def State.leaseEvent (s : State) (reason : Nat) : State :=
  s.event 0x30 unitHost [(24, 4, s.leaseSid), (28, 1, reason), (32, 8, s.leaseEnd)]

/-- The lease ends. -/
def State.leaseDrop (s : State) (reason : Nat) : State := (s.setField Reg.HOST_LEASE 63 32 0).leaseEvent reason

/-- The lease has passed its expiry. -/
def State.leaseCheck (s : State) : State :=
  if s.leaseSid ≠ 0 ∧ s.leaseEnd ≤ s.cnt.toNat then s.leaseDrop 3 else s

def execLeaseExpiry (s : State) : Res := .next s.leaseCheck

/-! ## Sessions (R354, R355) -/

def State.session (s : State) (sid : W32) : Option Session := s.host.sessions.find? fun x => x.sid == sid
def State.openSession (s : State) (sid : W32) : Bool := s.host.sessions.any fun x => x.live && x.sid == sid

/-- Stream packets that a session leaves unacknowledged go to the session that takes the stream next. -/
def Session.unsent (x : Session) : List (List Byte) :=
  ((x.chan 5).unacked.filter fun u => u.item == .stream).map (·.payload)

/-- A session ends: the lease with it if it held it (R355, R359). -/
def State.endSession (s : State) (sid : W32) : State :=
  match s.session sid with
  | none => s
  | some x =>
    let s := s.setSessions (s.host.sessions.filter fun y => y.sid ≠ sid)
    let s := { s with host := { s.host with streamOut := x.unsent ++ s.host.streamOut } }
    (if x.opened ∧ s.leaseSid = sid.toNat then s.leaseDrop 4 else s).flushStream

/-- Sessions of which a `PSN` has reached 2⁴⁸ end (R355). -/
def State.endSpent (s : State) : State :=
  (s.host.sessions.filter fun x => x.opened && !x.live).foldl (fun s x => s.endSession x.sid) s

/-- Ten seconds without a valid packet (R355). -/
def execSessionIdleTimeout (sid : W32) (s : State) : Res :=
  .next (match s.session sid with
    | some x => if x.last.toNat + 10000000000 ≤ s.cnt.toNat then s.endSession sid else s
    | none => s)

/-- The host port takes a `HELLO`: the link or a relay is up, and bring-up has passed step 4a (R422), or waits for a host-assisted
boot (R425). -/
def State.hostReady (s : State) : Bool :=
  (bitOf (s.reg Reg.HOST_STATUS) 0 || s.host.relay.isSome)
    && (s.pwr.st == .tap || s.pwr.st == .ready || s.pwr.st == .bootwait)

/-- `HELLO` is answered by `ACCEPT` (R354) while fewer than eight sessions are open (R355). -/
def execHello (x25519 mlkem nonce ed25519 mldsa : List Byte) (s : State) : Res :=
  .next (if !s.hostReady || decide (8 ≤ s.host.openCount) then s
    else
      let n := s.host.nextSid
      let sid : W32 := BitVec.ofNat 32 n
      let hello := x25519 ++ mlkem ++ nonce ++ ed25519 ++ mldsa
      let kem := Config.mlkemEncaps n mlkem
      let th := sha3 hello
      let pub := Config.x25519Public n
      let dn := Config.deviceNonce n
      let sigEd := Config.identityEd25519 th
      let sigMl := Config.identityMldsa th
      let accept := pub ++ kem.1 ++ dn ++ leBytes 4 n ++ sigEd ++ sigMl
      let x : Session :=
        { sid := sid, opened := false, transcript := hello ++ accept, hostEd := ed25519, hostMl := mldsa, keys := [],
          ikm := Config.x25519Shared n x25519 ++ kem.2, last := s.cnt, chans := [] }
      let s := { s with host := { s.host with sessions := s.host.sessions ++ [x], nextSid := n + 1 } }
      (s.toHost (.accept sid pub kem.1 dn sigEd sigMl)).toHost (.packet 0 0 (goengoHeader
        { ver := 1, cls := 0, ackv := false, retx := false, last := true, rsv0 := 0, sid := 0, psn := 0, ack := 0, sack := 0,
          rsv3 := 0, payload := accept, tag := [] } ++ accept)))

/-- The 88 B of keys (R355): HKDF with SHA3-256. -/
def sessionKeys (th ikm : List Byte) : List Byte :=
  let prk := hmac th ikm
  let info : List Byte := [0x67, 0x6F, 0x65, 0x6E, 0x67, 0x6F, 0x20, 0x76, 0x31]
  let t1 := hmac prk (info ++ [1])
  let t2 := hmac prk (t1 ++ info ++ [2])
  let t3 := hmac prk (t2 ++ info ++ [3])
  (t1 ++ t2 ++ t3).take 88

/-- The session opens, and the events not yet acknowledged and the waiting stream go to it. -/
def State.establish (s : State) (sid : W32) (fin : List Byte) : State :=
  let s := s.setSessions (s.host.sessions.map fun x =>
    if x.sid = sid then { x with opened := true, transcript := x.transcript ++ fin, last := s.cnt,
                                 keys := sessionKeys (sha3 (x.transcript ++ fin)) x.ikm } else x)
  (s.host.events.foldl (fun s e => s.transmit sid 4 (.event e) (leBytes 64 e.toNat)) s).flushStream

/-- `FINISH` (R354): both signatures over TH, and the key pair in the trust list, which a host-assisted boot does not consult
(R425); otherwise no session opens and the attempt is counted. -/
def execFinish (sid : W32) (sigEd sigMl : List Byte) (s : State) : Res :=
  .next (match s.host.sessions.find? (fun x => x.sid == sid && !x.opened) with
    | none => s
    | some x =>
      let th := sha3 x.transcript
      let ok := Config.ed25519Verify x.hostEd th sigEd && Config.mldsaVerify x.hostMl th sigMl
        && (s.pwr.st == .bootwait || s.host.trust.contains (x.hostEd, x.hostMl))
      if ok && decide (s.host.openCount < 8) then s.establish sid (sigEd ++ sigMl)
      else (s.setSessions (s.host.sessions.filter fun y => y.sid ≠ sid)).count Reg.HOST_CNT_AUTHFAIL 1)

/-! ## Transport (R350, R351) -/

/-- `RTO` has passed since the packet was last sent. -/
def State.rtoPassed (s : State) (u : TxPkt) : Bool := decide (u.sent.toNat + 1000 * s.field Reg.HOST_CFG 47 32 ≤ s.cnt.toNat)

/-- Packets of a class that have waited `RTO` for their acknowledgement are sent again (R351): what `SACK` shows as received has
left the list. -/
def execHostRetransmit (sid : W32) (cls : BitVec 4) (s : State) : Res :=
  .next (match s.host.session sid with
    | some x =>
      let c := x.chan cls.toNat
      let y := x.setChan { c with unacked := c.unacked.map fun u => if s.rtoPassed u then { u with sent := s.cnt } else u }
      { s with host := { s.host with
          sessions := s.host.sessions.map fun z => if z.sid = sid then y else z
          out := s.host.out ++ (c.unacked.filter s.rtoPassed).map fun u =>
            .packet sid cls.toNat (s.host.wire x cls.toNat true u.last u.psn u.payload) } }
    | none => s)

/-- An acknowledged item: an event leaves the store; stream bytes are taken, which moves `RISER_SS_TAIL` (R352). -/
def State.acked (s : State) (u : TxPkt) : State :=
  match u.item with
  | .event e => { s with host := { s.host with events := dropFirst (· == e) s.host.events } }
  | .stream =>
    if s.ringSize = 0 then s
    else
      let n := min u.payload.length s.host.ringUsed
      let t := (s.reg Reg.RISER_SS_TAIL).toNat
      let s := s.setReg Reg.RISER_SS_TAIL (BitVec.ofNat 64 ((t + n) % s.ringSize))
      { s with host := { s.host with ringUsed := s.host.ringUsed - n } }
  | .other => s

/-- Is PSN `n` acknowledged by `ACK` and `SACK`? -/
def ackCovers (ack : W64) (sack : W32) (n : W64) : Bool :=
  n.ult ack || (decide (ack.toNat < n.toNat ∧ n.toNat ≤ ack.toNat + 32) && sack.getLsbD (n.toNat - ack.toNat - 1))

/-- Take the acknowledgements of a packet. -/
def State.takeAck (s : State) (sid : W32) (cls : Nat) (ack : W64) (sack : W32) : State :=
  match s.session sid with
  | none => s
  | some x =>
    let c := x.chan cls
    let done := c.unacked.filter fun u => ackCovers ack sack u.psn
    let x := x.setChan { c with unacked := c.unacked.filter fun u => !ackCovers ack sack u.psn }
    let s := done.foldl (fun s u => s.acked u) (s.setSessions (s.host.sessions.map fun y => if y.sid = sid then x else y))
    if done.isEmpty then s else settle s

/-- Put a packet among those received, by rising `PSN`. -/
def insRx (p : Nat × Bool × List Byte) : List (Nat × Bool × List Byte) → List (Nat × Bool × List Byte)
  | [] => [p]
  | q :: t => if p.1 < q.1 then p :: q :: t else q :: insRx p t

/-- First `PSN` not received, from `n` on. -/
def nextRx (n : Nat) : List (Nat × Bool × List Byte) → Nat
  | [] => n
  | q :: t => if q.1 = n then nextRx (n + 1) t else if q.1 < n then nextRx n t else n

/-- The whole messages at the front of the packets received below `n`: first `PSN` and bytes of each, and what is left. -/
def messages (n : Nat) (acc : List Byte) (first : Option Nat) (kept : List (Nat × Bool × List Byte)) :
    List (Nat × Bool × List Byte) → List (Nat × List Byte) × List (Nat × Bool × List Byte)
  | [] => ([], kept)
  | q :: t =>
    if n ≤ q.1 then ([], kept ++ q :: t)
    else if q.2.1 then
      let x := messages n [] none [] t
      ((first.getD q.1, acc ++ q.2.2) :: x.1, x.2)
    else messages n (acc ++ q.2.2) (some (first.getD q.1)) (kept ++ [q]) t

/-- A packet is received in a channel (R351): duplicates and packets 4,096 or more beyond `ACK` are discarded. -/
def Chan.receive (c : Chan) (psn : Nat) (last : Bool) (bs : List Byte) : Chan × List (Nat × List Byte) :=
  if psn < c.rxNext.toNat ∨ c.rxNext.toNat + 4096 ≤ psn ∨ c.rxHave.any (fun q => q.1 == psn) then (c, [])
  else
    let have_ := insRx (psn, last, bs) c.rxHave
    let n := nextRx c.rxNext.toNat have_
    let m := messages n [] none [] have_
    ({ c with rxNext := BitVec.ofNat 64 n, rxHave := m.2 }, m.1)

/-! ## Link and relay (R391) -/

/-- The local host link comes up: the relay ends. -/
def State.linkUp (s : State) : State :=
  if bitOf (s.reg Reg.HOST_STATUS) 0 then s
  else
    let s := (s.setField Reg.HOST_STATUS 0 0 1).event 0x20 unitHost [(24, 1, 2), (25, 1, 0)]
    match s.host.relay with
    | some d =>
      { s.setField Reg.HOST_STATUS 2 2 0 with host := { s.host with relay := none } }.event 0x22 unitHost
        [(24, 1, 0), (26, 2, d.toNat)]
    | none => s

/-- The host link is lost (R391): masked, and sessions go on through a tray peer whose link is up. -/
def State.linkLoss (s : State) (mech : Nat) (relay : Option W16) : State :=
  if !bitOf (s.reg Reg.HOST_STATUS) 0 then s
  else
    let s := (s.setField Reg.HOST_STATUS 0 0 0).event 0x20 unitHost [(24, 1, 0), (25, 1, 2)]
    let s := s.raiseFault { mech := mech, unit := unitHost, cls := .masked, action := 6 }
    match relay with
    | some d =>
      { s.setField Reg.HOST_STATUS 2 2 1 with host := { s.host with relay := some d } }.event 0x22 unitHost
        [(24, 1, 1), (26, 2, d.toNat)]
    | none => s

def execHostLinkUp (s : State) : Res := .next s.linkUp
def execHostLinkLoss (relay : Option W16) (s : State) : Res := .next (s.linkLoss 0x0B relay)

/-! ## IEEE 1588 (R362) -/

/-- An offset from the grandmaster, in ns: local less grandmaster. Before the first heat after a `SEED` the counter may step,
never backwards (R11); otherwise it is slewed (log entry 52). -/
def State.ptpOffset (s : State) (ns : Int) : State :=
  if ns < 0 ∧ s.heats.lastSince = none then { s with cnt := s.cnt - BitVec.ofInt 64 ns } else s.slewBy ns

/-- The time at which a `Sync` was sent is known: a delay request is sent now. -/
def State.ptpRequest (s : State) (t1 t2 : W64) : State :=
  let n := s.host.ptp.seq
  { s with host := { s.host with ptp := { sync := none, seq := n + 1, req := some (n, t1, t2, s.cnt) },
                                 out := s.host.out ++ [.delayReq n s.cnt] } }

/-- A message of the clock's domain: `Sync` of a one-step master and `Follow_Up` of a two-step one start the delay measurement, and
the response to the delay request ends it: the offset is half the difference of the two ways. -/
def execPtpMessage (m : PtpMsg) (domain : Byte) (s : State) : Res :=
  .next (if s.field Reg.RUN_TIME_CFG 1 0 ≠ 2 ∨ s.field Reg.HOST_PTP_CFG 7 0 ≠ domain.toNat then s
    else
      let s := s.setField Reg.HOST_PTP_CFG 8 8 1
      match m with
      | .sync seq two t1 =>
        if two then { s with host := { s.host with ptp := { s.host.ptp with sync := some (seq, s.cnt) } } } else s.ptpRequest t1 s.cnt
      | .followUp seq t1 => match s.host.ptp.sync with
        | some x => if x.1 = seq then s.ptpRequest t1 x.2 else s
        | none => s
      | .delayResp seq t4 => match s.host.ptp.req with
        | some (n, t1, t2, t3) =>
          if n % 2 ^ 16 = seq.toNat then
            ({ s with host := { s.host with ptp := { s.host.ptp with req := none } } }).ptpOffset
              (((t2 - t1).toInt - (t4 - t3).toInt) / 2)
          else s
        | none => s)

/-- The grandmaster is lost: the counter runs free. -/
def execPtpGrandmasterLoss (s : State) : Res :=
  .next { s.setField Reg.HOST_PTP_CFG 8 8 0 with
    runner := { s.runner with slew := if s.field Reg.RUN_TIME_CFG 1 0 = 2 then 0 else s.runner.slew } }

end Sys2Proof.Machine
end

