-- ==== Sys2Proof/Machine/Heats.lean ====
section
/-! DEFINITION. Heats (R363 to R372, R400, R401): seed and launch as the host port decides them, what happens at the launch
count, completion with the heat record, and the overdue event. -/
namespace Sys2Proof.Machine

/-! ## Seed and launch (R361, R364, R365) -/

-- Reply statuses (R357).
namespace Reply
abbrev ok := 0
abbrev late := 1
abbrev busy := 2
abbrev order := 3
abbrev noseed := 4
abbrev held := 5
end Reply

/-- A `SEED` takes effect (R364, R367, R372): the record of the last heat launched is cleared, and the chain restarts. -/
def State.setSeed (s : State) (seed : W64) (key : BitVec 128) (base : Nat) : State :=
  { s.setField Reg.HOST_STATUS 1 1 1 with
    heats := { s.heats with seed := seed, key := key, base := base, lastSince := none, seedNew := true, windowStart := s.cnt } }

/-- Two launches contend (R361): the same heat, and counts in the same microsecond. -/
def Launch.contends (a b : Launch) : Bool := a.heat == b.heat && a.l.toNat / 1000 == b.l.toNat / 1000

/-- Which of two orders wins: the higher source, within one source the higher `PSN`. -/
def outranks (rank : Nat) (psn : W64) (rank' : Nat) (psn' : W64) : Bool :=
  decide (rank < rank') || (rank == rank' && psn'.ult psn)

/-- The status with which a `LAUNCH` is answered on arrival, decided from the top of the table of R365. -/
def State.launchStatus (s : State) (x : Launch) : Nat :=
  if !bitOf (s.reg Reg.HOST_STATUS) 1 then Reply.noseed
  else if decide (x.heat < s.heats.base) || (match s.heats.lastSince with
      | some n => decide (x.heat ≤ n)
      | none => false) then Reply.order
  else if x.l.toNat ≤ s.cnt.toNat + 5000 then Reply.late
  else match s.heats.pendingLaunch with
    | some p => if x.contends p && outranks x.rank x.psn p.rank p.psn then Reply.ok else Reply.busy
    | none => Reply.ok

/-- A pending launch is withdrawn (R353, R361). -/
def State.withdraw (s : State) (p : Launch) : State :=
  (s.count Reg.HOST_CNT_LOST 1).event 0x13 unitHost
    [(24, 8, p.l.toNat), (32, 8, p.psn.toNat), (40, 1, if p.rank = 3 then 2 else 1), (42, 2, p.peer.toNat)]

/-- The launch is pending. A holder's launch is relayed to the members of `LGRP` in hardware launch mode. -/
def State.pendLaunch (s : State) (x : Launch) : State :=
  let s := match s.heats.pendingLaunch with
    | some p => s.withdraw p
    | none => s
  let s := { s with heats := { s.heats with pendingLaunch := some x } }
  if x.rank = 2 && !s.modeBit 10 then s.send (.launch (s.field Reg.HOST_CFG 15 8) x.heat x.l x.flags) else s

/-- A `LAUNCH` arrives: its status, and the state after it. -/
def State.takeLaunchCmd (s : State) (x : Launch) : State × Nat :=
  let st := s.launchStatus x
  if st = Reply.ok then (s.pendLaunch x, st)
  else
    let lost := st == Reply.busy && (match s.heats.pendingLaunch with
      | some p => x.contends p
      | none => false)
    (s.count Reg.HOST_CNT_LOST (b2n lost), st)

/-! ## At the launch count (R365) -/

/-- An instruction that met the pair outside a heat issues (R223). -/
def reissue (i : Instr) (s : State) : Res :=
  match i with
  | .move h o => execMove h o s
  | .mfill h o => execMfill h o s
  | .tbload h o => execTbload h o s
  | .qsig h q t => execQsig h q t s
  | .qwait h q t => execQwait h q t s
  | .fence h m => execFence h m s
  | .barrier h b d r => execBarrier h b d r s
  | .digest h d r c l => execDigest h d r c l s
  | .chkst h r => execChkst h r s
  | .chkinj h x => execChkinj h x s
  | .spmm h o => execSpmm h o s
  | .spmmt h o => execSpmmt h o s
  | .spout h o => execSpout h o s
  | .sprobe h o => execSprobe h o s
  | .dmm h o => execDmm h o s
  | .accwr h o => execAccwr h o s
  | .accld h o => execAccld h o s
  | .prune h o => execPrune h o s
  | .grow h o => execGrow h o s
  | .compact h o => execCompact h o s
  | .epload h n r => execEpload h n r s
  | .vrun h o => execVrun h o s
  | .rscat h o => execRscat h o s
  | .agath h o => execAgath h o s
  | .ared h o => execAred h o s
  | .a2a h o => execA2a h o s
  | .rnorm h o => execRnorm h o s
  | .rsel h o => execRsel h o s
  | .dispatch h o => execDispatch h o s
  | .return_ h o => execReturn h o s
  | .combine h o => execCombine h o s
  | .gather h o => execGather h o s
  | .scatter h o => execScatter h o s
  | .tskip h o => execTskip h o s
  | .rupd h o => execRupd h o s
  | .rprog h p r t => execRprog h p r t s
  | .rfetch h d a k => execRfetch h d a k s
  | .raudit h d k => execRaudit h d k s
  | _ => .next s

/-- A launch that has reached a mould ends its wait. -/
def State.wake (s : State) (g : Nat) : State :=
  let m := s.mould g
  if m.stopped || !m.running then s
  else match m.wait, m.launched with
    | .hwait rd, some n => (s.takeLaunch g n).updMould g fun m => m.release.setX rd.toNat (BitVec.ofNat 64 n)
    | .heat i, some _ => match reissue i (s.setMould g { m with wait := .none }) with
      | .next t => t
      | _ => s
    | _, _ => s

/-- Risers' per-heat counts (R309), and the runner's, the memory system's, the host port's and the service's. -/
def deviceHeatCounts : List Nat :=
  (List.range 8).flatMap (fun r => [Reg.RISER_CNT_COMMIT, Reg.RISER_CNT_REPEAT, Reg.RISER_CNT_ABANDON, Reg.RISER_CNT_SKIP,
    Reg.RISER_CNT_CLAMP, Reg.RISER_CNT_VIOL, Reg.RISER_CNT_REFETCH].map (riserOff r))
  ++ [Reg.MEM_CNT_VIOL, Reg.MEM_CNT_RMW, Reg.RUN_CNT_VIOL, Reg.RUN_CNT_DROP, Reg.RUN_CNT_CLAMP, Reg.RUN_CNT_SAT,
      Reg.RUN_CNT_CTO, Reg.HOST_CNT_VIOL, Reg.HOST_CNT_LOST, Reg.SVC_DROP_LOST]

/-- A mould's counts and what belongs to one heat, cleared. -/
def Mould.clearHeat (m : Mould) : Mould :=
  { mouldHeatCounts.foldl (fun m o => m.setReg o 0) m with
    retries := 0, digests := [], oldDigests := [], collIssued := [], arrivals := []
    ckpt := m.ckpt.map fun c => { c with
      counts := c.counts.map fun e => if mouldHeatCounts.contains e.1 then (e.1, 0) else e, arrivals := [], digs := 0 } }

/-- Scalar n of heat h (R401). -/
def State.hscalar (s : State) (h n : Nat) : W64 :=
  if !s.modeBit 6 && n < 8 then Config.schedule (s.field Reg.SVC_INGOT 0 0 == 1) h n else s.reg (Reg.SVC_HSCALAR + 8 * n)

/-- What a mould latches at a launch (R401, R405). -/
def State.latchMould (s : State) (h g : Nat) : State :=
  s.updMould g fun m => (List.range 16).foldl (fun m n => m.setReg (Reg.MID_HSCALAR + 8 * n) (s.hscalar h n))
    (m.setReg Reg.MID_TEST (BitVec.ofNat 64 (s.field Reg.SVC_TEST 0 0)))

/-- The context area is valid (R387): 2 MiB for each of 256 indices, inside one allocated HBM region. -/
def State.ctxOk (s : State) : Bool :=
  let v := s.reg Reg.SVC_CTX_BASE
  bitOf v 63 && decide (fld v 47 0 % 0x200000 = 0) && s.inHbmRegion (fld v 47 0) (256 * 0x200000)

/-- A mould that waits for the launch enters service at instruction 0 with its loaded image; a guest's context is discarded
(R395, R399). -/
def State.enterService (s : State) (g : Nat) : State :=
  if s.mstate g ≠ Svc.pendingEnable ∨ (s.mould g).running then s
  else
    let s := (s.unguest g).setMstate g Svc.inService
    s.updMould g fun m => { Mould.reset with imem := m.loaded.getD m.imem, running := true }

/-- Mode bits other than 8, 9, 11 and 12 change at the launch (R400). -/
def latchModes (cur want : W64) : W64 := (want &&& mask 7 0) ||| (want &&& mask 10 10) ||| (cur &&& ~~~(mask 7 0 ||| mask 10 10))

/-- The launch is delivered to index g: a checkpoint is captured (R387); work that waits for a carrier finds the launch in
its checkpoint. -/
def State.deliver (s : State) (h g : Nat) : State :=
  let waiting := s.heats.guests.any fun e => e.1 == g
  s.updMould g fun m =>
    let m := { m with launched := some h }
    if waiting then { m with ckpt := m.ckpt.map fun c => { c with launched := some h } } else m.capture

/-- Inputs of the heat (R367). -/
def State.takeInputs (s : State) (l : W64) : State :=
  let mine (e : InputEnt) : Bool := !e.stamp.ult s.heats.windowStart && e.stamp.ult l && e.op != 0x20
  { s with heats := { s.heats with taken := s.heats.inputs.filter mine
                                   inputs := s.heats.inputs.filter fun e => !e.stamp.ult l
                                   windowStart := l } }

/-- What a launch clears and latches before it is delivered (R365 step 1, R275, R400, R401). -/
def State.prepareHeat (s : State) (x : Launch) : State :=
  let s := s.setReg Reg.SVC_MODE (latchModes (s.reg Reg.SVC_MODE) s.host.modeNext)
  let s := s.setField Reg.SVC_CFG 1 1 (b2n s.ctxOk)
  let s := (List.range 256).foldl State.enterService s
  let s := (List.range 4).foldl State.splitApply s
  let s := deviceHeatCounts.foldl (fun s o => s.setReg o 0) s
  let s := { s with
    moulds := s.moulds.map fun (e : Nat × Mould) => (e.1, e.2.clearHeat)
    risers := s.risers.map fun (e : Nat × Riser) => (e.1, { e.2 with audits := [] })
    barriers := []
    runner := { s.runner with finished := [], early := [], steps := [], returning := [] } }
  let time := s.reg Reg.RUN_TIME_STATUS
  let s := s.takeInputs x.l
  let s := (s.setReg Reg.HOST_HEAT (BitVec.ofNat 64 x.heat)).setField Reg.HOST_STATUS 3 3 1
  { s with free := s.free + 1
           heats := { s.heats with launches := s.free, lastSince := some x.heat, pendingLaunch := none, l := x.l, flags := x.flags,
                                   injected := false, noLock := !bitOf time 1, held := bitOf time 2, overdue := false } }

/-! ## Completion and the heat record (R366 to R372) -/

/-- Index g has reached `ENDED` in the running heat. -/
def State.ended (s : State) (g : Nat) : Bool :=
  let m := s.mould g
  m.launched.isNone && m.reg Reg.MID_HEAT_STATE == 2 && m.reg Reg.MID_HEAT == BitVec.ofNat 64 s.heatNum

/-- Every collective, routing step and riser command of the heat has retired. -/
def State.retired (s : State) : Bool :=
  s.runner.colls.all (fun c => c.phase == .done)
    && s.runner.steps.all (fun r => r.phase == .done || r.phase == .void || r.phase == .error)
    && (List.range 8).all (fun r => (s.riser r).queue.isEmpty && (s.riser r).opened.isNone)
    && s.working.all fun g => (s.mould g).drained

/-- Insert behind every element whose key is not greater. -/
def insertBy {α : Type} (lt : α → α → Bool) (x : α) : List α → List α
  | [] => [x]
  | y :: t => if lt x y then x :: y :: t else y :: insertBy lt x t

/-- Sort, keeping the order of equal elements. -/
def sortBy {α : Type} (lt : α → α → Bool) (l : List α) : List α := l.foldl (fun acc x => insertBy lt x acc) []

/-- One entry of the units section (R370). -/
def unitEntry (unit kind : Nat) (counts : List Nat) : List Byte :=
  leBytes 2 unit ++ leBytes 2 kind ++ leBytes 4 0 ++ padTo 56 (counts.flatMap (leBytes 8))

/-- A count as the heat record gives it: final from the `HEND` that captured the checkpoint (R223, R387), live before. -/
def Mould.recordCount (m : Mould) (o : Nat) : Nat :=
  match m.ckpt with
  | some c => if m.reg Reg.MID_HEAT_STATE == 2 && c.heatState == 2 then ((c.counts.lookup o).getD (m.reg o)).toNat else (m.reg o).toNat
  | none => (m.reg o).toNat

/-- The two entries of a mould. -/
def mouldUnits (g : Nat) (m : Mould) : List (List Byte) :=
  let c (o : Nat) : Nat := m.recordCount o
  [unitEntry g 1 [c Reg.CTL_CNT_VIOL, c Reg.VEC_CNT_VIOL, c Reg.MENG_CNT_VIOL, c Reg.MOVQ_CNT_VIOL,
     c Reg.MENG_CNT_CLAMP + c Reg.VEC_CNT_CLAMP + c Reg.MOVQ_CNT_CLAMP, c Reg.MENG_CNT_OVFREC,
     c Reg.MENG_CNT_CAPOVF % 2 ^ 32 + c Reg.MENG_SAT % 256 * 2 ^ 32 + c Reg.MENG_FLAGS_STICKY % 256 * 2 ^ 40],
   unitEntry g 2 [c Reg.PAT_CNT_VIOL, c Reg.PAT_CNT_PRUNED, c Reg.PAT_CNT_GROWN, c Reg.PAT_CNT_COMMIT, c Reg.PAT_CNT_PASSED,
     c Reg.PAT_CNT_NAN, c Reg.PAT_CNT_DEFER]]

/-- The units section's entries. -/
def State.unitEntries (s : State) : List (List Byte) :=
  let d (o : Nat) : Nat := (s.reg o).toNat
  s.working.flatMap (fun g => mouldUnits g (s.mould g))
    ++ (List.range 8).map (fun r => unitEntry (unitRiser r) 0 ([Reg.RISER_CNT_VIOL, Reg.RISER_CNT_CLAMP, Reg.RISER_CNT_COMMIT,
      Reg.RISER_CNT_REPEAT, Reg.RISER_CNT_ABANDON, Reg.RISER_CNT_SKIP, Reg.RISER_CNT_REFETCH].map fun o => d (riserOff r o)))
    ++ [unitEntry unitMemory 0 [d Reg.MEM_CNT_VIOL, d Reg.MEM_CNT_RMW],
        unitEntry unitRunner 0 ([Reg.RUN_CNT_VIOL, Reg.RUN_CNT_DROP, Reg.RUN_CNT_CLAMP, Reg.RUN_CNT_SAT, Reg.RUN_CNT_CTO,
          Reg.HOST_CNT_VIOL, Reg.HOST_CNT_LOST].map d)]

/-- A digest entry: kind, label or `TID`, unit, largest `CHEAT`, digest. -/
abbrev DigEnt := Nat × Nat × Nat × Nat × BitVec 128

def DigEnt.lt (a b : DigEnt) : Bool :=
  decide (a.1 < b.1) || (a.1 == b.1 && (decide (a.2.1 < b.2.1) || (a.2.1 == b.2.1 && decide (a.2.2.1 < b.2.2.1))))

/-- Entries of a mould: those that its guest made again appear once, with the guest's value (R390). -/
def Mould.digestEntries (m : Mould) (g : Nat) : List DigEnt :=
  ((m.oldDigests.filter fun e => m.digests.all fun f => f.1 != e.1) ++ m.digests).map fun e => (1, e.1, g, 0, e.2)

def State.digestEntries (s : State) : List DigEnt :=
  sortBy DigEnt.lt (s.working.flatMap (fun g => (s.mould g).digestEntries g)
    ++ (List.range 8).flatMap fun r => (s.riser r).audits.map fun a => (2, a.1, unitRiser r, a.2.1, a.2.2))

def digestEntry (e : DigEnt) : List Byte :=
  leBytes 1 e.1 ++ leBytes 1 0 ++ leBytes 2 e.2.2.1 ++ leBytes 4 e.2.1 ++ leBytes 8 e.2.2.2.1 ++ leBytes 16 e.2.2.2.2.toNat

/-- A section, omitted when it has no entries (R370). -/
def section_ (type : Nat) (es : List (List Byte)) : List Byte :=
  let b := es.flatten
  if es = [] then [] else leBytes 2 type ++ leBytes 2 0 ++ leBytes 4 es.length ++ leBytes 8 b.length ++ b

/-- `ILOG_DIG` (R369). -/
def inputDigest (es : List InputEnt) : List Byte :=
  (sha3 (es.flatMap fun e => leBytes 2 e.op ++ leBytes 8 e.target ++ leBytes 4 e.len ++ leBytes 16 e.dig.toNat)).take 16

/-- What the running heat's record holds as things stand. -/
def State.heatRec (s : State) : HeatRec :=
  { heat := s.heatNum
    flags := s.heats.flags % 2 + 4 * b2n s.heats.injected + 8 * b2n s.heats.held + 16 * b2n s.heats.noLock
    seed := s.heats.seed, key := s.heats.key, l := s.heats.l, taken := s.heats.taken, nmould := s.servingList.length
    units := s.unitEntries, digs := s.digestEntries.map digestEntry, faults := s.heats.faults }

/-- The record up to `LEN` (R369, R370, R372). With no input taken, `ILOG_SEQ` is the given value. -/
def State.recordBody (s : State) (r : HeatRec) (iseq : W64) : List Byte :=
  let fs := r.faults.map fun e => leBytes 64 e.toNat
  let body := section_ 1 r.units ++ section_ 2 r.digs ++ section_ 3 fs
  let chain := if s.heats.seedNew then none else s.heats.chain
  let first := match r.taken with
    | e :: _ => e.iseq
    | [] => iseq.toNat
  leBytes 2 1 ++ leBytes 2 (r.flags + 2 * b2n chain.isNone) ++ leBytes 4 (256 + body.length) ++ leBytes 8 r.heat ++ leBytes 2 s.devAddr
    ++ leBytes 2 (1 + b2n (r.digs != []) + b2n (fs != [])) ++ leBytes 4 r.nmould ++ leBytes 8 r.seed.toNat
    ++ (sha3 (leBytes 16 r.key.toNat)).take 8 ++ leBytes 8 r.l.toNat ++ leBytes 8 s.cnt.toNat ++ leBytes 8 first
    ++ leBytes 4 r.taken.length ++ leBytes 4 0 ++ inputDigest r.taken ++ chain.getD (List.replicate 32 0) ++ List.replicate 136 0 ++ body

/-- The record with its signatures, padded to units of 64 B (R371). -/
def signRecord (body chain : List Byte) : List Byte :=
  let r := body ++ padTo 64 (Config.identityEd25519 chain) ++ padTo 3309 (Config.identityMldsa chain)
  padTo (roundup64 r.length) r

def State.hrecSize (s : State) : Nat := (s.reg Reg.HOST_HREC_LIMIT).toNat - (s.reg Reg.HOST_HREC_BASE).toNat

/-- The heat-record ring is valid (R369). -/
def State.hrecValid (s : State) : Bool :=
  decide (0 < s.hrecSize) && s.inHbmRegion (s.reg Reg.HOST_HREC_BASE).toNat s.hrecSize

/-- Bytes into the record ring from `HEAD` on, wrapping at its end. -/
def State.hrecStore (s : State) (bs : List Byte) : State :=
  let base := (s.reg Reg.HOST_HREC_BASE).toNat
  let head := (s.reg Reg.HOST_HREC_HEAD).toNat
  let k := min bs.length (s.hrecSize - head)
  (s.store 0 (base + head) (bs.take k)).store 0 base (bs.drop k)

/-- A heat's record is placed and signed, `HEAT_DONE` is posted, and `HEAT_END` goes to the state stream (R366, R371); none where the
record does not fit or there is no valid ring. -/
def State.placeRecord (s : State) (r : HeatRec) : Option State :=
  let f := if r.taken = [] then s.freshWord else (0, s)
  let body := f.2.recordBody r f.1
  let chain := sha3 body
  let rec_ := signRecord body chain
  if !s.hrecValid || decide (s.hrecSize < s.heats.recUsed + rec_.length) then none
  else
    let s := f.2
    let head := (s.reg Reg.HOST_HREC_HEAD).toNat
    let s := (s.hrecStore rec_).setReg Reg.HOST_HREC_HEAD (BitVec.ofNat 64 ((head + rec_.length) % s.hrecSize))
    let s := { s with heats := { s.heats with
      chain := some chain, seedNew := false, recUsed := s.heats.recUsed + rec_.length,
      endWait := s.heats.endWait ++ [(⟨3, 0, r.heat, 0, 0, chain, 0⟩ : RingRec)] } }
    some (settle (s.eventOf r.heat 0x10 unitHost [(24, 6, head), (30, 2, rec_.length / 64), (32, 32, leNat chain)]))

/-- Records of heats that a launch overtook are placed while they fit, oldest first. -/
def placeOwed : List HeatRec → State → State
  | [], s => { s with heats := { s.heats with owed := [] } }
  | r :: t, s => match s.placeRecord r with
    | some u => placeOwed t u
    | none => { s with heats := { s.heats with owed := r :: t } }

/-- The heat ends when its record is placed, behind those that wait: held results are released. A record that does not fit, or has
no valid ring, waits with `HRWAIT` set. -/
def State.completeHeat (s : State) : State :=
  let s := placeOwed s.heats.owed s
  match (if s.heats.owed = [] then s.placeRecord s.heatRec else none) with
  | none => s.setField Reg.HOST_STATUS 5 5 1
  | some s =>
    let s := (s.setField Reg.HOST_STATUS 5 5 0).setField Reg.HOST_STATUS 3 3 0
    { s with runner := { s.runner with held := [] }, heats := { s.heats with faults := [], taken := [] } }

/-- Everything that a heat waits for has happened (R366). -/
def State.heatReady (s : State) : Bool := s.heatRuns && s.working.all s.ended && s.retired

def execHeatComplete (s : State) : Res := .next (if s.heatReady then s.completeHeat else s)

/-- `HLIMIT` ms after L the heat has not completed: an event, once (R366). -/
def execHeatOverdue (s : State) : Res :=
  .next (if s.heatRuns && !s.heats.overdue
      && decide (s.heats.l.toNat + s.field Reg.HOST_CFG 31 16 * 1000000 ≤ s.cnt.toNat) then
      { s with heats := { s.heats with overdue := true } }.event 0x11 unitHost [(24, 8, s.heats.l.toNat)]
    else s)

/-! ## The launch count is reached (R365) -/

/-- A launch overtakes the heat before it (R365 asks only that no mould is `RUNNING`): where that heat waits for nothing but its record,
the record is kept as it stands, for none is dropped (R369); else it has none (log entry 76). -/
def State.overtake (s : State) : State :=
  if !s.heatReady then s
  else { s with runner := { s.runner with held := [] }
                heats := { s.heats with owed := s.heats.owed ++ [s.heatRec], faults := [], taken := [] } }

/-- At L: no heat starts while a mould in service is `RUNNING` or after a fatal fault; otherwise the launch is prepared, delivered to
every index that works, and taken by the pairs that wait for it. -/
def State.launchNow (s : State) (x : Launch) : State :=
  let busy := s.working.find? fun g => (s.mould g).reg Reg.MID_HEAT_STATE == 1
  if s.heats.fatal || busy.isSome then
    let s := s.event 0x12 (busy.getD unitHost) [(24, 8, x.l.toNat)]
    { s with heats := { s.heats with pendingLaunch := none } }
  else
    let s := s.overtake.prepareHeat x
    let gs := s.working
    let s := gs.foldl (fun s g => (s.latchMould x.heat g).deliver x.heat g) s
    gs.foldl State.wake s

/-- The launch count of the pending launch is reached. -/
def execHeatLaunch (s : State) : Res :=
  .next (match s.heats.pendingLaunch with
    | some x => if x.l.toNat ≤ s.cnt.toNat then s.launchNow x else s
    | none => s)

end Sys2Proof.Machine
end

