-- ==== Sys2Proof/Machine/Service.lean ====
section
/-! DEFINITION. Live service (R389, R394 to R399, R403, R404, R405): blocks leave and enter service, guests take turns on their
targets, stalled blocks are fenced, and ingot blocks are activated. -/
namespace Sys2Proof.Machine

/-! ## Moulds (R395, R396) -/

/-- A mould that has run no heat since its reset has nothing to finish (log entry 79). -/
def Mould.idle (m : Mould) : Bool := m.reg Reg.MID_HEAT_STATE == 0 && m.launched.isNone && m.drained

/-- A write of `SVC_MOULD_CTL` g. An enable of a mould that does not run waits for the next launch; cancelling it leaves the
mould `OUT`. In `LOADING` the enable is kept until the load ends. -/
def State.mouldCtlWrite (s : State) (g : Nat) (v : W64) : State :=
  let s := s.judge (mctlOff g) v
  let st := s.mstate g
  if st = Svc.fused then s
  else
    let en := bitOf v 0
    let s := s.setField (mctlOff g) 0 0 (b2n en)
    if en then
      if st = Svc.draining ∨ st = Svc.out then s.setMstate g Svc.pendingEnable
      else if st = Svc.failed then
        let f := s.freshBit
        if f.1 then f.2.setMstate g Svc.pendingEnable
        else f.2.raiseFault { mech := 0, unit := g, cls := .degraded, action := 0 }
      else s
    else if st = Svc.inService then
      if (s.mould g).idle && (s.mould g).running then s.goOut g else s.setMstate g Svc.draining
    else if st = Svc.pendingEnable then s.setMstate g (if (s.mould g).running then Svc.draining else Svc.out)
    else s

/-- The words of an image of `n` × 64 B at a local address, as instruction memory (R170). -/
def State.image (s : State) (addr n : Nat) : SMap W64 :=
  ((List.range (8 * n)).map fun i => (i, (BitVec.ofNat 64 (s.wordAt 0 (addr + 8 * i) 8) : W64))).filter fun e => e.2 ≠ 0

/-- A write of `SVC_MOULD_LOAD` g: only while `OUT`, with a length of 1 to 1,024 units; the mould is reset, its memory loaded
and its checkpoint cleared. While its work runs as a guest the image waits for the mould's own start (log entry 54). -/
def State.mouldLoadWrite (s : State) (g : Nat) (v : W64) : State :=
  let off := Reg.SVC_MOULD_LOAD + 8 * g
  let n := fld v 58 48
  if s.mstate g ≠ Svc.out ∨ n = 0 ∨ 1024 < n then s.refuseWrite off
  else
    let img := s.image (fld v 47 0) n
    let s := (s.plainWrite off v).setMstate g Svc.loading
    s.updMould g fun m =>
      if (s.hostOf g).isSome then { m with loaded := some img, ckpt := none }
      else { Mould.reset with imem := img, launched := m.launched, stopped := true }

/-- The reload ends. -/
def State.mouldLoaded (s : State) (g : Nat) : State :=
  if s.mstate g ≠ Svc.loading then s
  else s.setMstate g (if bitOf (s.reg (mctlOff g)) 0 then Svc.pendingEnable else Svc.out)

/-- A write that changes `EN` alone. -/
def execMouldDisable (g : BitVec 8) (s : State) : Res :=
  .next (s.mouldCtlWrite g.toNat (setFld (s.reg (mctlOff g.toNat)) 0 0 0))
def execMouldEnable (g : BitVec 8) (s : State) : Res := 
  .next (s.mouldCtlWrite g.toNat (setFld (s.reg (mctlOff g.toNat)) 0 0 1))
def execMouldLoad (g : BitVec 8) (v : W64) (s : State) : Res := .next (s.mouldLoadWrite g.toNat v)
def execMouldLoadComplete (g : BitVec 8) (s : State) : Res := .next (s.mouldLoaded g.toNat)

/-! ## Guests (R389, R390, R403) -/

/-- The running context of a mould stands at a suspension point with its queues empty: a wait in `BARRIER` or a retired
`HEND`; a guest for which no heat has started yet is passed over. -/
def State.suspended (s : State) (t : Nat) : Bool :=
  let o := s.occupant t
  let m := s.mould o
  let idle := m.launched.isNone && (m.reg Reg.MID_HEAT_STATE == 2 || (o != t && m.reg Reg.MID_HEAT_STATE == 0))
  m.drained && ((match m.wait with
    | .barrier _ _ _ true => true
    | _ => false) || idle)

/-- Waiting work that mould t takes up: in hardware remap mode any of its crucible, otherwise what the holder assigned. -/
def State.eligible (s : State) (t : Nat) : List Nat :=
  (s.heats.guests.filter fun e => e.1 != t && (if s.modeBit 7 then e.2 == some t else e.1 / 64 == t / 64)).map (·.1)

/-- Mould t becomes the carrier of index g, whose context starts from its checkpoint and waits for its turn. -/
def State.adopt (s : State) (t g : Nat) : State :=
  ((s.unguest g).setHost g (some t)).updMould g fun m => { m.restore with stopped := true }

/-- The context that follows `o` in ascending cyclic order. -/
def nextTurn (o : Nat) (l : List Nat) : Nat := (l.find? (fun g => o < g)).getD (l.headD o)

/-- Mould t switches contexts at a suspension point: it adopts waiting work and runs the next context in turn. -/
def State.guestSwitch (s : State) (t : Nat) : State :=
  if !s.serving t || !s.suspended t then s
  else
    let o := s.occupant t
    let s := (s.eligible t).foldl (fun s g => s.adopt t g) s
    let turn := nextTurn o (sortBy (fun a b => decide (a < b)) (t :: s.carried t))
    if turn = o then s
    else
      let s := (s.updMould o fun m => { m with stopped := true }).updMould turn fun m => { m with stopped := false }
      settle (s.wake turn)

def execGuestSwitch (target : BitVec 8) (s : State) : Res := .next (s.guestSwitch target.toNat)

/-- A write of `SVC_REMAP` (R403): fenced work that waits, and a target in service in its crucible. -/
def State.remapWrite (s : State) (v : W64) : State :=
  let g := fld v 7 0
  let t := fld v 15 8
  if !bitOf v 16 || g / 64 != t / 64 || !s.serving t || s.heats.guests.all (fun e => e.1 != g) then s.refuseWrite Reg.SVC_REMAP
  else
    let s := s.plainWrite Reg.SVC_REMAP v
    { s with heats := { s.heats with
        guests := s.heats.guests.map fun (e : Nat × Option Nat) => if e.1 = g then (g, some t) else e } }

def execHostRemap (v : W64) (s : State) : Res := .next (s.remapWrite v)

/-! ## Stacks (R395 to R397) -/

/-- A region in HBM has its footprint in stack k. -/
def State.stackUsed (s : State) (k : Nat) : Bool :=
  (List.range 64).any fun n => s.rgnHeld n && windowOf (s.rgnBase n) == some .hbm && (s.rgnStacks n).contains k

/-- A write of `SVC_STACK_CTL` k: with every region gone there is nothing left to drain. While the stack trains, the enable is
kept. -/
def State.stackCtlWrite (s : State) (k : Nat) (v : W64) : State :=
  let off := sctlOff k
  let s := s.judge off v
  let st := s.sstate k
  let en := bitOf v 0
  if en then
    let s := s.setField off 0 0 1
    if st = Svc.out ∨ st = Svc.failed then s.setSstate k 6 else s
  else if st = Svc.inService then
    if s.stackUsed k then s.setField off 7 7 1
    else ((s.setField off 7 7 0).setField off 0 0 0).setSstate k Svc.out
  else s.setField off 0 0 0

/-- A stack is fenced: what its riser was executing ends with an error response. -/
def State.stackFail (s : State) (k mech : Nat) : State :=
  let s := (s.raiseFault { mech := mech, unit := unitStack k, cls := .degraded, action := 0 }).setSstate k Svc.failed
  settle s

/-- Training ends (R391, R396). The riser comes back with its stack; a resumption that is due stays due. -/
def State.stackTrained (s : State) (k : Nat) (ok : Bool) : State :=
  if s.sstate k ≠ 6 then s
  else if ok then
    let s := s.setSstate k (if bitOf (s.reg (sctlOff k)) 0 then Svc.inService else Svc.out)
    s.updRiser k fun x => if x.recover then x else { x with failed := false }
  else s.stackFail k 0x0C

def execStackDisable (k : BitVec 3) (s : State) : Res := 
  .next (s.stackCtlWrite k.toNat (setFld (s.reg (sctlOff k.toNat)) 0 0 0))
def execStackEnable (k : BitVec 3) (s : State) : Res := 
  .next (s.stackCtlWrite k.toNat (setFld (s.reg (sctlOff k.toNat)) 0 0 1))
def execStackTrainingComplete (k : BitVec 3) (ok : Bool) (s : State) : Res := .next (s.stackTrained k.toNat ok)

/-! ## Stalls (R383, R386) -/

/-- A handshake stage has stalled: the block that contains it is fenced. -/
def execHandshakeStall (b : Block) (s : State) : Res :=
  .next (match b with
    | .mould g => s.failMould g.toNat 7
    | .riser r => if s.riserServing r.toNat then settle (s.failRiser r.toNat 7) else s
    | .stack k => if s.stackServing k.toNat then s.stackFail k.toNat 7 else s
    | .port p => s.portFail p.toNat 7
    | .sequencer c => s.failSequencer c.toNat 7
    | .hostPort => s.linkLoss 7 none)

/-! ## Ingot blocks (R398) -/

/-- The idle bank (`SVC_INGOT.IDLE`): true is B. -/
def State.idleIsB (s : State) : Bool := bitOf (s.reg Reg.SVC_INGOT) 1
def State.idleIngot (s : State) : Ingot := if s.idleIsB then s.pwr.bankB else s.pwr.bankA

/-- A write of `SVC_INGOT`: one block of the idle ingot starts to load, unless its signatures do not verify, its last write
was not accepted (R425), or an activation is in progress. A block number above 9 names no block. -/
def State.ingotActivate (s : State) (v : W64) : State :=
  let off := Reg.SVC_INGOT
  let blk := fld v 11 8
  if 9 < blk then s.refuseWrite off
  else
    let s := s.judge off v
    let ok := s.idleIngot.edOk && s.idleIngot.mlOk && s.field Reg.PWR_FLASH_CTL 60 56 == 0 && s.pwr.ingotBusy.isNone
      && !bitOf (s.reg off) 16
    if !ok then s.setField off 17 17 1
    else
      let s := (s.setField off 17 17 0).setField off 16 16 1
      { s with pwr := { s.pwr with activated := blk :: s.pwr.activated.filter (· ≠ blk) } }

/-- A block has loaded: the trust list comes from block 9; with all ten blocks loaded the banks exchange, and the option bytes
follow; a new attestation record is built (R398, R423, R429). -/
def State.ingotActivated (s : State) : State :=
  let off := Reg.SVC_INGOT
  if !bitOf (s.reg off) 16 then s
  else
    let idle := s.idleIngot
    let s := s.setField off 16 16 0
    let s := match s.pwr.activated with
      | 9 :: _ => { s with host := { s.host with trust := idle.trust } }
      | _ => s
    let s := { s with pwr := { s.pwr with attests := s.pwr.attests + 1 } }
    if s.pwr.activated.length < 10 then s
    else
      let a := b2n s.idleIsB
      let s := (s.setField off 0 0 a).setField off 1 1 (1 - a)
      { s with pwr := { s.pwr with activated := [], opt := setFld s.pwr.opt 1 1 a, optSeq := s.pwr.optSeq + 1 } }

def execIngotActivate (blk : BitVec 4) (s : State) : Res :=
  .next (s.ingotActivate (setFld (s.reg Reg.SVC_INGOT) 11 8 blk.toNat))
def execIngotActivationComplete (s : State) : Res := .next s.ingotActivated

end Sys2Proof.Machine
end

