-- ==== Sys2Proof/Machine/Power.lean ====
section
/-! DEFINITION. Power input, quench, reset and bring-up (R406 to R431), thermal supervision (R280, R420), hot swap (R450 to
R452), and what the holder writes to the module flash and the fuses (R423 to R426). -/
namespace Sys2Proof.Machine

/-! ## Input stage (R406, R431, R443, R450) -/

/-- `ALERT_CAUSE` bits (R443). -/
def State.alertBit (s : State) (i : Nat) : State := { s with pwr := { s.pwr with alert := s.pwr.alert ||| (1 <<< i) } }

def State.setVin (s : State) (v : W16) : State := s.setField Reg.PWR_INPUT 47 32 v.toNat
def State.setVnode (s : State) (v : W16) : State := s.setField Reg.PWR_INPUT 31 16 v.toNat
def State.vnode (s : State) : Nat := s.field Reg.PWR_INPUT 31 16
def State.setInputOn (s : State) (b : Bool) : State := s.setField Reg.PWR_STATUS 1 1 (b2n b)

/-- The pins allow the input stage to close (R450). -/
def Power.pinsOk (p : Power) : Bool := p.mated && p.ejectHigh && decide (p.slotStrap.toNat ≤ 8)

def execInputUndervoltage (vin : W16) (s : State) : Res :=
  .next (if vin.toNat < 4000 then (s.setVin vin).setInputOn false else s.setVin vin)
/-- A reversed busbar: what `VIN` then reads is not stated (log entry 3). -/
def execInputReversed (s : State) : Res :=
  let f := s.freshWord
  .next ((f.2.setVin (f.1.setWidth 16)).setInputOn false)
def execInputOvervoltage (vin : W16) (s : State) : Res :=
  .next (if 6200 < vin.toNat then (s.setVin vin).setInputOn false else s.setVin vin)
/-- The removal sequence, once begun, runs on with the input stage open (R452). -/
def execInputReconnect (vin : W16) (s : State) : Res :=
  let s := s.setVin vin
  .next (if 4400 ≤ vin.toNat ∧ vin.toNat ≤ 6100 ∧ s.pwr.pinsOk ∧ !s.pwr.removing then s.setInputOn true else s)
def execInputRangeAlert (vin : W16) (s : State) : Res :=
  let s := s.setVin vin
  .next (if vin.toNat < 4600 ∨ 6000 < vin.toNat then s.alertBit 5 else s)

/-! ## Ingots (R424, R425) -/

/-- `FAIL` of R425: 0 when every check passes. -/
def State.ingotCheck (s : State) (i : Ingot) : Nat :=
  if !i.magicOk then 1
  else if s.pwr.keys.all fun k => !(k.sealed && !k.revoked && k.hash == i.keyHash) then 2
  else if i.svn < s.pwr.fsvn then 3
  else if !i.edOk then 4
  else if !i.mlOk then 5
  else if !i.digestsOk then 6
  else if !i.readOk then 7
  else 0

/-- The ingot whose bytes a function gives (R424). -/
def parseIngot (at_ : Nat → Byte) : Ingot :=
  let take (a n : Nat) : List Byte := (List.range n).map fun i => at_ (a + i)
  let h := sha3 (take 0 2656)
  let entry (i : Nat) : Nat := 32 + 64 * i
  let digs := (List.range 10).map fun i => take (entry i + 8) 32
  { magicOk := leNat (take 0 4) == 0x494E4731 && leNat (take 4 4) == 1
    keyHash := sha3 (take 672 1984)
    svn := leNat (take 8 8)
    edOk := Config.ed25519Verify (take 672 32) h (take 2656 64)
    mlOk := Config.mldsaVerify (take 704 1952) h (take 2720 3309)
    digestsOk := (List.range 10).all fun i =>
      sha3 (take (leNat (take (entry i) 4)) (leNat (take (entry i + 4) 4))) == take (entry i + 8) 32
    readOk := true
    blocks := digs
    topo := (Config.ingotTopo digs).toNat
    coords := (Config.ingotCoords digs).toNat
    domain := (Config.ingotDomain digs).toNat
    trust := Config.ingotTrust digs }

def State.setBank (s : State) (b : Bool) (i : Ingot) : State :=
  { s with pwr := if b then { s.pwr with bankB := i } else { s.pwr with bankA := i } }
def State.bank (s : State) (b : Bool) : Ingot := if b then s.pwr.bankB else s.pwr.bankA
def State.activeIsB (s : State) : Bool := bitOf (s.reg Reg.SVC_INGOT) 0

/-! ## Save images (R412, R413) -/

/-- Words of a byte list. -/
def imageWords (bs : List Byte) : SMap W64 :=
  ((List.range (cdiv bs.length 8)).map fun i => (i, (BitVec.ofNat 64 (leNat ((bs.drop (8 * i)).take 8)) : W64))).filter
    fun e => e.2 ≠ 0

/-- A mould's 512 B: x1 to x31, the predicates, s0 to s7, pending bits, PC, heat state, tokens and `CTL_STATUS`, each as a word
in that order (log entry 55). -/
def State.savedMould (s : State) (g : Nat) : List Byte :=
  let m := s.mould g
  let w (off : Nat) : Nat := (mouldView s g off).toNat
  padTo 512 (((List.range 31).map (fun i => (m.getX (i + 1)).toNat) ++ [m.p.toNat] ++ (List.range 8).map (fun k => (m.getS k).toNat)
    ++ [w Reg.CTL_SUM_PEND, m.pc.toNat, w Reg.MID_HEAT_STATE, w Reg.MID_TOKENS, w Reg.CTL_STATUS]).flatMap (leBytes 8))

/-- A riser's 320 B: log header, open journal entry, `RISER_JNL_PHASE`, `RISER_STATUS`. -/
def State.savedRiser (s : State) (r : Nat) : List Byte :=
  let x := s.riser r
  let entry := match x.opened with
    | some o => s.mem.gets ((s.reg (shdOff r o.entry 3)).toNat + 64 * o.chunk) 64
    | none => List.replicate 64 0
  padTo 320 (s.mem.gets (s.logAt r) 128 ++ entry ++ leBytes 8 (riserPhase x) ++ leBytes 8 (s.riserStatus r))

/-- Bytes of `n` registers from an offset. -/
def State.regBytes (s : State) (off n : Nat) : List Byte :=
  (List.range n).flatMap fun i => leBytes 8 (s.reg (off + 8 * i)).toNat

/-- The image of a quench or a thermal trip, up to its completion unit (log entry 55 for the header's places). -/
def State.saveBytes (s : State) (qseq cause : Nat) : List Byte :=
  padTo 64 (leBytes 4 0x51535631 ++ leBytes 4 0x39BC0 ++ leBytes 8 qseq ++ leBytes 8 s.heatNum ++ leBytes 8 s.cnt.toNat
      ++ leBytes 8 cause ++ leBytes 8 s.pwr.fseq)
    ++ padTo 64 (s.heats.chain.getD [])
    ++ (List.range 256).flatMap s.savedMould
    ++ (List.range 8).flatMap s.savedRiser
    ++ padTo 36864 (section_ 1 s.unitEntries)
    ++ s.regBytes Reg.PWR_BKP 32
    ++ s.regBytes Reg.SVC_FLOG 8192

/-- At a quench every pair halts (R194), and each riser stops after its current journal write (R298). -/
def State.stopAll (s : State) : State :=
  (List.range 8).foldl (fun s r => s.updRiser r fun x => { x with stopped := true })
    { s with moulds := s.moulds.map fun (e : Nat × Mould) => (e.1, { e.2 with halted := true, stopped := true }) }

/-- The image is programmed into the next slot in turn. -/
def State.save (s : State) (cause : Nat) : State :=
  let qseq := match s.pwr.bestSave with
    | some i => i.qseq + 1
    | none => 1
  let b := s.stopAll.saveBytes qseq cause
  let img : SaveImg :=
    { qseq := qseq, slot := s.pwr.nextSave, heat := s.heatNum, fseq := s.pwr.fseq, chain := s.heats.chain,
      words := imageWords (b ++ padTo 64 (leBytes 4 0x51535643 ++ sha3 b)) }
  { s with pwr := { s.pwr with saves := s.pwr.saves.filter (fun i => i.slot ≠ s.pwr.nextSave) ++ [img],
                               nextSave := (s.pwr.nextSave + 1) % 8 } }

/-! ## Reset (R415, R416, R418) -/

/-- Registers that a warm reset keeps: the fault log, backup registers and holder area (R416, R430), and the supply and boot
state that the standby domain holds. -/
def keptWarm (off : Nat) : Bool :=
  decide (Reg.SVC_FLOG ≤ off ∨ (Reg.PWR_BKP ≤ off ∧ off < 0x60200) ∨ (Reg.PWR_RETAIN ≤ off ∧ off < Reg.PWR_QIMG)
    ∨ off = Reg.SVC_FLOG_HEAD ∨ off = Reg.SVC_INGOT ∨ off = Reg.PWR_STATUS ∨ off = Reg.PWR_INPUT ∨ off = Reg.PWR_BANK
    ∨ off = Reg.PWR_RST_CAUSE ∨ off = Reg.PWR_BOOT_STATUS ∨ off = Reg.PWR_QSAVE)

/-- Registers that a cold power-up keeps: the measured supply. -/
def keptCold (off : Nat) : Bool := decide (off = Reg.PWR_STATUS ∨ off = Reg.PWR_INPUT ∨ off = Reg.PWR_BANK)

/-- Everything but the standby domain, the flash and the fuses takes its reset value; an ingot write is abandoned and leaves
the idle bank as it is, erased. The lists of what has been sent are records and stay (log 33). -/
def State.coreReset (s : State) (cold : Bool) : State :=
  let kept := s.regs.filter fun e => if cold then keptCold e.1 else keptWarm e.1
  let boot := bitOf s.host.modeNext 12
  let t : State :=
    { State.reset with
      pending := s.pending
      cnt := if cold then 0 else s.cnt
      phase := if cold then 0 else s.phase
      regs := kept
      mem := ⟨[], [(0, 2 ^ 40, s.epoch), (placeStart, placeEnd, s.epoch)]⟩
      free := s.free
      epoch := s.epoch + 1
      host := { HostPort.reset with nextSid := s.host.nextSid, out := s.host.out }
      runner := { Runner.reset with out := s.runner.out, txNext := s.runner.out.length, txSeqs := s.runner.txSeqs }
      heats := { Heats.reset with chain := if cold then none else s.heats.chain
                                  faults := if cold then [] else s.heats.faults }
      pwr := { s.pwr with masked := [], optBusy := false, ingotBusy := none, ingotPending := none, activated := []
                          hotLast := [], hotOver := [], mpRestart := none
                          fseq := if cold then 0 else s.pwr.fseq } }
  let m := if cold then bitOf s.pwr.opt 0 else boot
  let t := (t.setField Reg.SVC_MODE 12 12 (b2n m)).setField Reg.SVC_INGOT 17 16 0
  let t := t.setField Reg.PWR_STATUS 2 2 0
  let t := (s.pwr.fused.filter (· < 256)).foldl (fun t g => t.setReg (mctlOff g) 0x50) t
  { t with host := { t.host with modeNext := t.reg Reg.SVC_MODE } }

/-- After a cold power-up the best save image restores the fault log, `FSEQ` and the chain value (R413). -/
def State.restoreRetained (s : State) : State :=
  match s.pwr.bestSave with
  | none => s
  | some i =>
    let s := (List.range 8192).foldl (fun s k => s.setReg (Reg.SVC_FLOG + 8 * k) (SMap.get 0 i.words (0x29B80 / 8 + k))) s
    let s := s.setReg Reg.SVC_FLOG_HEAD (BitVec.ofNat 64 (i.fseq % 1024))
    { s with heats := { s.heats with chain := i.chain }, pwr := { s.pwr with fseq := i.fseq } }

/-- A reset from a source takes effect and the module waits for bring-up (R415, R416). Losing `READY` other than by a reset
command is an alert (R443). -/
def State.assertReset (s : State) (cause : Nat) : State :=
  let s := if s.pwr.st == .ready && cause != 3 && cause != 4 then s.alertBit 4 else s
  let n := s.field Reg.PWR_RST_CAUSE 63 32
  let s := s.coreReset false
  let s := s.setReg Reg.PWR_RST_CAUSE (BitVec.ofNat 64 ((n + 1) % 2 ^ 32 * 2 ^ 32 + cause))
  { s with pwr := { s.pwr with st := .held } }

/-! ## Bring-up (R421, R422, R440) -/

/-- Fields of `PWR_BOOT_STATUS`. -/
def State.bootFail (s : State) (code fails : Nat) : State :=
  (s.setField Reg.PWR_BOOT_STATUS 63 56 code).setField Reg.PWR_BOOT_STATUS 19 16 (min 15 fails)
def State.bootFails (s : State) : Nat := s.field Reg.PWR_BOOT_STATUS 19 16

/-- From step 4c to `READY` on an accepted ingot. -/
def State.finishBoot (s : State) (i : Ingot) (bankB host fallback : Bool) : State :=
  let bs := Reg.PWR_BOOT_STATUS
  let s := ((((s.setField bs 39 32 i.svn).setField bs 19 16 0).setField bs 8 8 (b2n fallback)).setField bs 4 4
    (b2n bankB)).setField bs 0 0 (b2n host)
  let s := s.setReg Reg.RUN_TOPO (BitVec.ofNat 64 (i.topo * 65536 + s.pwr.slotStrap.toNat * 4096 + i.coords))
  let s := s.setField Reg.HOST_PTP_CFG 7 0 i.domain
  let s := { s with
    mem := { s.mem with cells := s.mem.cells.filter fun c => c.1 < flaskBase ∨ placeStart ≤ c.1 }
    host := { s.host with trust := i.trust }
    pwr := { s.pwr with st := .ready, removing := false, attests := s.pwr.attests + 1
                        saves := s.pwr.saves.filter fun x => x.slot ≠ s.pwr.nextSave } }
  let s := s.resetMoulds
  let s := match s.pwr.bestSave with
    | some x => s.setReg Reg.PWR_QSAVE (BitVec.ofNat 64 (2 ^ 63 + x.slot % 8 * 2 ^ 60 + x.heat % 2 ^ 48))
    | none => s.setReg Reg.PWR_QSAVE 0
  let s := (List.range 16).foldl State.portTrain s
  s.event 0x51 unitMp [(24, 8, (devView s bs).toNat), (32, 8, (s.reg Reg.PWR_RST_CAUSE).toNat)]

/-- The ingot stage from module flash: the active bank, or once the idle one; after `RETRY` failures the other bank; if that
fails as well, `BOOTWAIT`. -/
def State.flashBoot (s : State) (once : Bool) : State :=
  let active := s.activeIsB
  let retry := fld s.pwr.opt 19 16
  let c0 := s.ingotCheck (s.bank !active)
  let s := if once && c0 != 0 then s.bootFail c0 (s.bootFails + 1) else s
  if once && c0 == 0 then s.finishBoot (s.bank !active) (!active) false false
  else
    let c := s.ingotCheck (s.bank active)
    if c = 0 ∧ s.bootFails < retry then s.finishBoot (s.bank active) active false false
    else
      let s := if s.bootFails < retry then s.bootFail c retry else s
      let d := s.ingotCheck (s.bank !active)
      if d = 0 then s.finishBoot (s.bank !active) (!active) false true
      else
        let s := s.bootFail d (s.bootFails + 1)
        { s with pwr := { s.pwr with st := .bootwait } }

/-- Bring-up from the fuse stage. An invalid slot strap stops it (R440); otherwise the module leaves `HELD`, which releases
`THERMTRIP_N` (R436). -/
def State.bringUp (s : State) (once : Bool) : State :=
  if 8 < s.pwr.slotStrap.toNat then { s with pwr := { s.pwr with st := .held } }
  else
    let s := { s with pwr := { s.pwr with thermtrip := false } }
    if bitOf (s.reg Reg.SVC_MODE) 12 then { s with pwr := { s.pwr with st := .bootwait } } else s.flashBoot once

/-- A cold bring-up: the standby domain starts, and retained memory is restored (R413). -/
def State.coldUp (s : State) : State :=
  let s := (s.coreReset true).restoreRetained
  let s := s.setField Reg.SVC_INGOT 1 0 (if bitOf s.pwr.opt 1 then 1 else 2)
  { s with pwr := { s.pwr with standby := true } }.bringUp false

/-- Nothing holds the module in `HELD` (R414, R417, R420, R452). -/
def State.mayRise (s : State) : Bool :=
  s.pwr.st == .held && !s.pwr.rstLow && !s.pwr.tripped && s.pwr.pinsOk && decide (5000 ≤ s.vnode)

/-- Leave `HELD`: warm, or cold if the standby domain has lost power. -/
def State.rise (s : State) (once : Bool) : State :=
  if !s.mayRise then s else if s.pwr.standby then s.bringUp once else s.coldUp

/-- A warm reset. -/
def State.warmReset (s : State) (cause : Nat) (once : Bool) : State := (s.assertReset cause).rise once

/-- The module is seated with its lever closed (R450). -/
def Power.seated (p : Power) : Bool := p.mated && p.ejectHigh

/-- Cold power-up (R407, R417, R422, R439, R440): the bank is measured; bring-up waits in step 1 until the reference is present and
`RST_N` is high. With an invalid slot strap it ends in `HELD`, the management bus in service. -/
def State.powerUp (s : State) : State :=
  if s.pwr.st == .charging && s.pwr.refclk && s.pwr.seated && !s.pwr.rstLow && decide (5000 ≤ s.vnode) then s.coldUp else s

def State.coldPowerUp (s : State) (ceff vin vnode : W16) : State :=
  if s.pwr.st != .charging || !s.pwr.seated then s
  else
    let low := decide (ceff.toNat < 120)
    let s := (((s.setVin vin).setVnode vnode).setReg Reg.PWR_BANK (ceff.setWidth 64)).setField Reg.PWR_STATUS 3 3 (b2n low)
    let s := if 4400 ≤ vin.toNat ∧ vin.toNat ≤ 6100 ∧ s.pwr.pinsOk then s.setInputOn true else s
    let s := if low then s.alertBit 3 else s
    let t := s.powerUp
    if low then t.event 0x52 unitMp [(24, 2, ceff.toNat), (26, 1, 1), (28, 2, vin.toNat), (30, 2, vnode.toNat)] else t

def execColdPowerUp (ceff vin vnode : W16) (s : State) : Res := .next (s.coldPowerUp ceff vin vnode)
/-- The reference clock has been present for 10 ms. -/
def execRefclkDetect (s : State) : Res := .next ({ s with pwr := { s.pwr with refclk := true } }.powerUp)

/-! ## Quench (R409 to R414) -/

/-- Quench is armed (R409). -/
def execQuenchArm (vnode : W16) (s : State) : Res :=
  let s := s.setVnode vnode
  .next (if s.pwr.st == .ready && decide (5000 ≤ vnode.toNat) then s.setField Reg.PWR_STATUS 2 2 1 else s)

/-- `RDREG` and `RDMEM`, which no quench outranks (R361). -/
def readOnly (i : Instr) : Bool :=
  match i with
  | .rdreg _ _ => true
  | .rdmem _ _ _ => true
  | _ => false

/-- From the window in which quench begins every command that has not taken effect loses to it, `RDREG` and `RDMEM` excepted, and each
is counted (R361); one that took effect earlier in the window is not undone (log entry 77). -/
def State.loseOrders (s : State) : State :=
  let n := (s.host.deferred.filter fun d => !readOnly d.2).length + b2n s.heats.pendingLaunch.isSome
  { s.count Reg.HOST_CNT_LOST n with
    host := { s.host with deferred := s.host.deferred.filter fun d => readOnly d.2 }
    heats := { s.heats with pendingLaunch := none } }

/-- The quench event of step 1. -/
def State.quenchEvent (s : State) (cause : Nat) : State :=
  s.loseOrders.event 0x50 unitMp [(24, 1, cause), (26, 2, s.vnode)]

/-- V_node reaches 46 V: the save sequence when armed, otherwise `HELD` with nothing saved; below 30 V the standby domain is
lost. -/
def State.quenchAt (s : State) (vnode : W16) : State :=
  let armed := bitOf (s.reg Reg.PWR_STATUS) 2
  let s := s.setVnode vnode
  if 4625 < vnode.toNat then s
  else
    let s := if s.pwr.st == .held || s.pwr.st == .charging then s
      else if armed then (((s.quenchEvent 1).alertBit 2).save 1).assertReset 8
      else s.assertReset 8
    { s with pwr := { s.pwr with removing := false, standby := s.pwr.standby && decide (3000 ≤ vnode.toNat) } }

def execQuench (vnode : W16) (s : State) : Res := .next (s.quenchAt vnode)

/-- V_node has been 50 V or more for 100 ms. -/
def execHeldExit (vnode : W16) (s : State) : Res := .next ((s.setVnode vnode).rise false)

/-! ## Reset pin and internal sources (R417, R420) -/

/-- The pin resets the device; before bring-up has started there is nothing to reset, and during the removal sequence the reset is
held to the end of quench (R414, R452): only the level of the pin is seen. -/
def State.rstPin (s : State) : State :=
  let t := if s.pwr.st == .charging || s.pwr.removing && s.pwr.st != .held then s else s.assertReset 2
  { t with pwr := { t.pwr with rstLow := true } }

/-- `RST_N` low for `ns`: below 1 µs ignored, from 10 µs on a reset, between them either (R417). -/
def execRstNAssert (ns : W32) (s : State) : Res :=
  let f := s.freshBit
  let hit := if ns.toNat < 1000 then (false, s) else if 10000 ≤ ns.toNat then (true, s) else f
  .next (if hit.1 then hit.2.rstPin else hit.2)

def execRstNRelease (s : State) : Res :=
  .next (if s.pwr.rstLow then ({ s with pwr := { s.pwr with rstLow := false } }.rise false).powerUp else s)

/-- The watchdog resets the device; in a bring-up that has not reached `READY` it counts in `FAILS` (R421). -/
def execWatchdogTimeout (s : State) : Res :=
  .next (if s.pwr.st == .held || s.pwr.st == .charging then s
    else
      let n := s.bootFails
      let t := s.assertReset 5
      (if s.pwr.st == .ready then t else t.setField Reg.PWR_BOOT_STATUS 19 16 (min 15 (n + 1))).rise false)

/-- A lockstep mismatch of the management processor: a restart, or a device reset when it follows within 1 s or the restart is
late (R420). Either is a detected fault and is reported (R18, R382); the class of the one that resets is the model's (log entry 73). -/
def execMpLockstepMismatch (late : Bool) (s : State) : Res :=
  .next (if s.pwr.st == .held || s.pwr.st == .charging then s
    else
      let again := match s.pwr.mpRestart with
        | some t => decide (s.cnt.toNat < t.toNat + 1000000000)
        | none => false
      if late || again then
        (s.raiseFault { mech := 3, unit := unitMp, cls := .fatal, action := 9 }).warmReset 6 false
      else { s with pwr := { s.pwr with mpRestart := some s.cnt } }.raiseFault
        { mech := 3, unit := unitMp, cls := .masked, action := 7 })

/-! ## Temperatures (R280, R420, R443) -/

/-- Sensors at their trip limits: dies 115 °C, flasks 110 °C, stacks 105 °C; each must read so twice in a row. -/
def hotSensors (t : BitVec 192) : List Nat :=
  (List.range 18).filter fun i => decide ((if i < 6 then 115 else if i < 10 then 110 else 105) ≤ tempAt t i)

/-- The thermal trip: steps 1 to 5 of R409 with `CAUSE` 2, then `HELD`. -/
def State.thermalTrip (s : State) : State :=
  let s := (s.quenchEvent 2).alertBit 2
  let s := (s.save 2).assertReset 7
  { s with pwr := { s.pwr with tripped := true, thermtrip := true } }

/-- A reading of every sensor. Voltages move, and a trip is decided, while the core rails are up: in `READY` and in `BOOTWAIT` (R422). -/
def State.thermalSample (s : State) (t : BitVec 192) : State :=
  let s := { s with pwr := { s.pwr with temps := t } }
  let s := if 65 ≤ tempAt t 20 then s.alertBit 6 else s
  if s.pwr.st != .ready && s.pwr.st != .bootwait then s
  else
    let s := (List.range 4).foldl (fun s c => s.thermStep t c) s
    let s := if (List.range 4).any fun c => bitOf (s.reg (Reg.MEM_THERM_STATUS + 8 * c)) 0 then s.alertBit 1 else s
    let hot := hotSensors t
    let trip := hot.any (fun i => s.pwr.hotLast.contains i) || decide (125 ≤ tempAt t 18)
    if trip then s.thermalTrip else { s with pwr := { s.pwr with hotLast := hot } }

def execThermalSample (temps : BitVec 192) (s : State) : Res := .next (s.thermalSample temps)

/-- Every reading has been 85 °C or less for 1 s. -/
def execThermalTripRelease (temps : BitVec 192) (s : State) : Res :=
  let s := { s with pwr := { s.pwr with temps := temps } }
  .next (if s.pwr.tripped && (List.range 21).all fun i => decide (tempAt temps i ≤ 85) then
      { s with pwr := { s.pwr with tripped := false } }.rise false
    else s)

/-! ## Hot swap (R450 to R452) -/

def execModuleInsert (s : State) : Res :=
  .next { s with pwr := { s.pwr with mated := true, ejectHigh := true } }

/-- The removal sequence: the input stage opens and the bleed load is on. -/
def State.removal (s : State) : State := { s.setInputOn false with pwr := { s.pwr with removing := true } }

def execEjectNAssert (s : State) : Res := .next ({ s with pwr := { s.pwr with ejectHigh := false } }.removal)
def execEjectNRelease (s : State) : Res := .next { s with pwr := { s.pwr with ejectHigh := true } }
def execMatedNRelease (s : State) : Res := .next ({ s with pwr := { s.pwr with mated := false } }.removal)

/-! ## Flash and fuses (R423 to R426, R431) -/

/-- A write of `PWR_OPT`. -/
def State.optWrite (s : State) (v : W64) : State :=
  if s.pwr.optBusy ∨ fld v 19 16 = 0 ∨ fld v 15 8 = 0 then s.refuseWrite Reg.PWR_OPT
  else
    let s := s.judge Reg.PWR_OPT v
    let o := setFld (setFld s.pwr.opt 19 8 (fld v 19 8)) 0 0 (fld v 0 0)
    { s with pwr := { s.pwr with opt := o, optSeq := s.pwr.optSeq + 1, optBusy := true } }

def execOptionBytesWrite (v : W64) (s : State) : Res := .next (s.optWrite v)
def execOptionBytesProgrammed (s : State) : Res := .next { s with pwr := { s.pwr with optBusy := false } }

/-- A byte of the image that an ingot write reads: HBM inside allocated regions; beyond `LEN` the flash is erased. -/
def State.flashByte (s : State) (src len i : Nat) : Byte :=
  if 4096 * len ≤ i then 0xFF
  else if s.inHbmRegion (src + i) 1 then s.mem.get (src + i) else 0

/-- A write of `PWR_FLASH_CTL`; `GO` erases the idle bank and starts to program it. -/
def State.flashWrite (s : State) (v : W64) : State :=
  let off := Reg.PWR_FLASH_CTL
  let go := bitOf v 63
  let len := fld v 31 0
  if (go && s.pwr.ingotBusy.isSome) || decide (len = 0 ∨ 31232 < len) then s.refuseWrite off
  else
    let s := (s.judge off v).setField off 31 0 len
    if !go then s
    else
      let src := (s.reg Reg.PWR_FLASH_SRC).toNat
      let i := parseIngot (s.flashByte src len)
      let s := (s.setField off 61 61 0).setBank s.idleIsB Ingot.blank
      { s with pwr := { s.pwr with ingotBusy := some len, ingotPending := some i } }

/-- The write has finished, and the checks have run on the result. -/
def State.flashDone (s : State) : State :=
  match s.pwr.ingotPending with
  | none => s
  | some i =>
    let off := Reg.PWR_FLASH_CTL
    let s := s.setBank s.idleIsB i
    let s := (s.setField off 61 61 1).setField off 60 56 (s.ingotCheck i)
    { s with pwr := { s.pwr with ingotBusy := none, ingotPending := none } }

def execIngotWrite (v : W64) (s : State) : Res := .next (s.flashWrite (setFld v 63 63 1))
def execIngotWriteDone (s : State) : Res := .next s.flashDone

def Power.key (p : Power) (i : Nat) : KeySlot := p.keys.getD i ⟨[], false, false⟩
def Power.setKey (p : Power) (i : Nat) (k : KeySlot) : Power := { p with keys := p.keys.set i k }

/-- Another slot than 0 is sealed and not revoked. -/
def Power.otherKey (p : Power) : Bool := [1, 2, 3].any fun i => (p.key i).sealed && !(p.key i).revoked

/-- A write of `PWR_KEY_CTL` (R426). -/
def State.keyWrite (s : State) (v : W64) : State :=
  let off := Reg.PWR_KEY_CTL
  let n := fld v 9 8
  let k := s.pwr.key n
  let put := bitOf v 4
  let bad := put == bitOf v 5 || (put && (n == 0 || k.sealed))
    || (!put && (!k.sealed || (n == 0 && !s.pwr.otherKey)))
  if bad then s.refuseWrite off
  else
    let s := s.plainWrite off v
    if put then { s with pwr := s.pwr.setKey n ⟨s.regBytes Reg.PWR_KEY_HASH 4, true, k.revoked⟩ }
    else { s with pwr := s.pwr.setKey n { k with revoked := true } }

def execKeySeal (slot : BitVec 2) (s : State) : Res := .next (s.keyWrite (BitVec.ofNat 64 (slot.toNat * 256 + 16)))
def execKeyRevoke (slot : BitVec 2) (s : State) : Res := .next (s.keyWrite (BitVec.ofNat 64 (slot.toNat * 256 + 32)))

/-- A write of `PWR_SVN_COMMIT` (R426). -/
def State.svnWrite (s : State) (v : W64) : State :=
  let n := fld v 6 0
  if n ≤ s.pwr.fsvn ∨ (s.bank s.activeIsB).svn < n then s.refuseWrite Reg.PWR_SVN_COMMIT
  else { s.judge Reg.PWR_SVN_COMMIT v with pwr := { s.pwr with fsvn := n } }

def execSvnCommit (v : W64) (s : State) : Res := .next (s.svnWrite v)

end Sys2Proof.Machine
end

