-- ==== Sys2Proof/Machine/RegWrite.lean ====
section
/-! DEFINITION. Writing a device register (R14, R16): the plain rule, and every register whose write does more or may be
ignored (R65, R268, R275, R281, R284, R305, R310, R347, R369, R373, R374, R395 to R398, R403, R404, R423 to R426). -/
namespace Sys2Proof.Machine

/-! ## Host port (R369, R373, R374) -/

/-- A completion that waits for the record ring is tried again. -/
def State.retryRecord (s : State) : State :=
  if !bitOf (s.reg Reg.HOST_STATUS) 5 then s
  else if s.heatReady then s.completeHeat
  else
    let s := placeOwed s.heats.owed s
    if s.heats.owed = [] then s.setField Reg.HOST_STATUS 5 5 0 else s

/-- A write of the record ring's base or limit: not while it holds unread records or a heat runs (R373), unless completion waits for
a ring that is not valid: that write sets `HEAD` and `TAIL` to 0 (R369). -/
def State.hrecWrite (s : State) (off : Nat) (v : W64) : State :=
  let waiting := bitOf (s.reg Reg.HOST_STATUS) 5 && !s.hrecValid
  if (s.heatRuns || s.heats.recUsed != 0) && !waiting then s.refuseWrite off
  else if waiting then
    let s := ((s.plainWrite off v).setReg Reg.HOST_HREC_HEAD 0).setReg Reg.HOST_HREC_TAIL 0
    { s with heats := { s.heats with recUsed := 0 } }.retryRecord
  else s.plainWrite off v

/-- A write of the input log's base or limit. -/
def State.ilogWrite (s : State) (off : Nat) (v : W64) : State :=
  if s.heatRuns || s.reg Reg.HOST_ILOG_SEQ != s.reg Reg.HOST_ILOG_TAIL then s.refuseWrite off else s.plainWrite off v

def State.hostCfgWrite (s : State) (v : W64) : State :=
  if fld v 47 32 < 20 ∨ 10000 < fld v 47 32 ∨ fld v 31 16 = 0 then s.refuseWrite Reg.HOST_CFG else s.plainWrite Reg.HOST_CFG v

/-! ## Riser tables (R65, R284, R310) -/

/-- A command of riser r names the shard of an identifier, or has its entry open. -/
def State.shardBusy (s : State) (r e : Nat) : Bool :=
  let x := s.riser r
  let tid := fld (s.reg (shdOff r e 0)) 23 0
  (match x.opened with
    | some o => o.entry == e
    | none => false)
  || (bitOf (s.reg (shdOff r e 0)) 63 && x.queue.any fun c => c.work.images.any fun d => imgTid d == tid)

/-- Another valid owner entry of the device has this `TID`. -/
def State.ownedElsewhere (s : State) (r e tid : Nat) : Bool :=
  (List.range 8).any fun r' => (List.range 64).any fun e' =>
    let k := s.reg (shdOff r' e' 0)
    !(r' == r && e' == e) && bitOf k 63 && !bitOf k 62 && fld k 23 0 == tid

/-- A write to a shard entry of riser r. -/
def State.shardWrite (s : State) (r : Nat) (off : Nat) (v : W64) : State :=
  let o := off % 0x1000 - 0x100
  let e := o / 32
  let w := o % 32 / 8
  let ids := w ≤ 1 && (fld v 23 22 != 0 || fld v 47 46 != 0)
  let second := w == 0 && bitOf v 63 && !bitOf v 62 && s.ownedElsewhere r e (fld v 23 0)
  if s.shardBusy r e || ids || second then s.refuseWrite off else s.plainWrite off v

/-- A write in riser r's range. -/
def State.riserWrite (s : State) (off : Nat) (v : W64) : State :=
  let r := (off - Reg.RISER) / 0x1000
  let o := off % 0x1000
  if o = Reg.RISER_LOG_BASE then
    if !(s.riser r).queue.isEmpty || (s.riser r).opened.isSome then s.refuseWrite off else s.plainWrite off v
  else if 0x100 ≤ o ∧ o < 0x900 then s.shardWrite r off v
  else s.plainWrite off v

/-! ## Runner tables (R347) -/

/-- A `RETURN` or `COMBINE` whose descriptor has this word 0 property waits in a runner queue: its step is open. -/
def State.stepQueued (s : State) (f : W64 → Bool) : Bool :=
  s.moulds.any fun e => (e.2.queue 4).any fun x => match x with
    | .work _ (.route k _ _ _ _ _ _ de _ _) => (k == .return_ || k == .combine) && f (de.getD 0 0)
    | _ => false

/-- A collective or routing step that names group g is open. -/
def State.groupBusy (s : State) (g : Nat) : Bool :=
  s.runner.colls.any (fun c => c.grp == g) || s.runner.steps.any (fun r => r.grp == g && r.isOpen)
    || s.stepQueued fun w => fld w 31 24 == g

/-- A routing step that names expert table t is open. -/
def State.etabBusy (s : State) (t : Nat) : Bool :=
  s.runner.steps.any (fun r => r.etab == t && r.isOpen) || s.stepQueued fun w => fld w 23 16 == t

/-- A write of a runner register. -/
def State.runnerWrite (s : State) (off : Nat) (v : W64) : State :=
  if off = Reg.RUN_CTO then
    if fld v 31 0 = 0 ∨ 1000000 < fld v 31 0 then s.refuseWrite off else s.plainWrite off v
  else if off = Reg.RUN_CMB_LIMIT then
    if fld v 7 0 = 0 ∨ 192 < fld v 7 0 then s.refuseWrite off else settle (s.plainWrite off v)
  else if off = Reg.RUN_TIME_CFG then s.roleWrite v
  else if 0x40100 ≤ off ∧ off < 0x40200 ∧ off % 16 = 8 then (s.judge off v).portWrite ((off - 0x40100) / 16) (bitOf v 0)
  else if 0x44000 ≤ off ∧ off < 0x48000 then
    if s.groupBusy ((off - Reg.RUN_GRP) / 64) then s.refuseWrite off else s.plainWrite off v
  else s.plainWrite off v

/-! ## Service and power -/

/-- A write of the context area or the drop ring: not while a heat runs (R404). A moved drop ring starts empty. -/
def State.idleWrite (s : State) (off : Nat) (v : W64) : State :=
  if s.heatRuns then s.refuseWrite off
  else
    let t := s.plainWrite off v
    if off = Reg.SVC_CTX_BASE then t else t.setReg Reg.SVC_DROP_HEAD 0

def State.serviceWrite (s : State) (off : Nat) (v : W64) : State :=
  if off = Reg.SVC_CTX_BASE ∨ off = Reg.SVC_DROP_BASE ∨ off = Reg.SVC_DROP_LIMIT then s.idleWrite off v
  else if off = Reg.SVC_REMAP then s.remapWrite v
  else if off = Reg.SVC_INGOT then s.ingotActivate v
  else if 0x50080 ≤ off ∧ off < 0x500C0 then s.stackCtlWrite ((off - Reg.SVC_STACK_CTL) / 8) v
  else if 0x50400 ≤ off ∧ off < 0x50C00 then s.mouldCtlWrite ((off - Reg.SVC_MOULD_CTL) / 8) v
  else if 0x50C00 ≤ off ∧ off < 0x51400 then s.mouldLoadWrite ((off - Reg.SVC_MOULD_LOAD) / 8) v
  else s.plainWrite off v

def State.powerWrite (s : State) (off : Nat) (v : W64) : State :=
  if off = Reg.PWR_OPT then s.optWrite v
  else if off = Reg.PWR_SVN_COMMIT then s.svnWrite v
  else if off = Reg.PWR_FLASH_CTL then s.flashWrite v
  else if off = Reg.PWR_KEY_CTL then s.keyWrite v
  else s.plainWrite off v

def State.memWrite (s : State) (off : Nat) (v : W64) : State :=
  if off < 0x20800 then
    if off % 32 = 24 then s.rgnCtlWrite ((off - 0x20000) / 32) v else s.rgnWrite off v
  else if off < 0x20820 then s.splitWrite ((off - Reg.MEM_FLASK_SPLIT) / 8) v
  else if off = Reg.MEM_THERM_CFG ∨ (Reg.MEM_VTARGET ≤ off ∧ off < 0x208A0) then s.thermWrite off v
  else s.plainWrite off v

def State.hostWrite (s : State) (off : Nat) (v : W64) : State :=
  if off = Reg.HOST_HREC_BASE ∨ off = Reg.HOST_HREC_LIMIT then s.hrecWrite off v
  else if off = Reg.HOST_ILOG_BASE ∨ off = Reg.HOST_ILOG_LIMIT then s.ilogWrite off v
  else if off = Reg.HOST_CFG then s.hostCfgWrite v
  else s.plainWrite off v

def State.streamWrite (s : State) (off : Nat) (v : W64) : State :=
  if off = Reg.RISER_SS_BASE ∨ off = Reg.RISER_SS_LIMIT then s.ringConfig off v
  else if off = Reg.RISER_SS_TAIL then s.ringTail v
  else if off = Reg.RISER_SS_CFG then settle (s.plainWrite off v)
  else s.plainWrite off v

/-- A write of the device register at an offset. -/
def devWrite (s : State) (off : Nat) (v : W64) : State :=
  if (devRow off).isNone then s.judge off v
  else if off < 0x20000 then s.hostWrite off v
  else if off < 0x30000 then s.memWrite off v
  else if off < 0x38000 then s.riserWrite off v
  else if off < 0x40000 then s.streamWrite off v
  else if off < 0x50000 then s.runnerWrite off v
  else if off < 0x60000 then s.serviceWrite off v
  else if off < 0xD0000 then s.powerWrite off v
  else if off < 0xF0000 then
    if s.etabBusy ((off - 0xD0000) / 0x2000) then s.refuseWrite off else s.plainWrite off v
  else s.plainWrite off v

def execRegisterWrite (off : W32) (v : W64) (s : State) : Res := .next (devWrite s off.toNat v)

end Sys2Proof.Machine
end

