-- ==== Sys2Proof/Machine/Commands.lean ====
section
/-! DEFINITION. Host commands (R350 to R361, R364, R365, R367, R400, R415, R425): arrival, authority, contention, deferred
effects, the input log, and how packets and frames become commands. -/
namespace Sys2Proof.Machine

/-! ## Replies -/

/-- A violation at the host port that no command header belongs to. -/
def State.hostViol (s : State) : State := s.count Reg.HOST_CNT_VIOL 1

/-- A violation of a command (R357, R358): counted, and nothing else. A reserved byte that is not zero has counted it already (R16:
once). -/
def State.cmdViol (s : State) (c : CmdHdr) : State := s.count Reg.HOST_CNT_VIOL (b2n (!c.rsv))

/-- A `PSN` of the session has reached 2⁴⁸: it ends (R355). -/
def State.psnCheck (s : State) (sid : W32) : State :=
  match s.session sid with
  | some x => if x.chans.any fun c => decide (2 ^ 48 ≤ c.txNext.toNat) then s.endSession sid else s
  | none => s

/-- The bytes of a reply (R358). -/
def replyBytes (op st : Nat) (psn : W64) (res : List W64) : List Byte :=
  leBytes 2 op ++ leBytes 1 st ++ leBytes 5 0 ++ leBytes 8 psn.toNat ++ res.flatMap fun w => leBytes 8 w.toNat

/-- A reply (R358), to a session that is still open. -/
def State.reply (s : State) (c : CmdHdr) (op st : Nat) (res : List W64) : State :=
  if c.peer.isSome || !s.openSession c.sid then s
  else ((s.toHost (.reply c.sid op st c.psn res)).transmit c.sid 1 .other (replyBytes op st c.psn res)).psnCheck c.sid

namespace Op
abbrev rdreg := 0x01
abbrev wrreg := 0x02
abbrev rdmem := 0x03
abbrev lease := 0x10
abbrev seed := 0x20
abbrev launch := 0x21
abbrev htail := 0x22
abbrev sscredit := 0x23
abbrev itail := 0x24
abbrev mode := 0x30
abbrev reset := 0x40
end Op

/-! ## What each command does at its effect stamp -/

/-- Registers that any session may read (R357). -/
def publicReg (off : Nat) : Bool :=
  off == Reg.HOST_STATUS || off == Reg.HOST_LEASE || decide (Reg.HOST_HREC_BASE ≤ off ∧ off ≤ Reg.HOST_HREC_TAIL)

def State.cmdRdreg (s : State) (c : CmdHdr) (off : Nat) : State :=
  if off % 8 ≠ 0 || !(s.holds c.sid || publicReg off) then s.cmdViol c
  else s.reply c Op.rdreg Reply.ok [devView s off]

/-- May the session read these bytes: the holder inside one allocated region, anyone inside the record ring. -/
def State.mayRead (s : State) (sid : W32) (a n : Nat) : Bool :=
  if s.holds sid then s.inRegion a n fun _ => true
  else decide ((s.reg Reg.HOST_HREC_BASE).toNat ≤ a ∧ a + n ≤ (s.reg Reg.HOST_HREC_LIMIT).toNat)

/-- Some granule of [a, a + n) is answered with an error response (R17). -/
def State.rangeErrs (s : State) (a n : Nat) : Bool :=
  (List.range ((a + n + 511) / 512 - a / 512)).any fun i => s.addrErrs (max a (512 * (a / 512 + i)))

/-- `RDMEM` (R352, R357): the bytes behind their 16 B prefix in class 3. Where a granule is answered with an error response, its data
has no meaning: none is sent, and the session is told (R17, log entry 75). -/
def State.cmdRdmem (s : State) (c : CmdHdr) (a n : Nat) : State :=
  if n = 0 || !s.mayRead c.sid a n then s.cmdViol c
  else if s.rangeErrs a n then s.toHost (.error c.sid Op.rdmem c.psn)
  else
    let bs := s.mem.gets a n
    ((s.toHost (.dataOut c.sid a bs)).transmit c.sid 3 .other (leBytes 8 a ++ leBytes 4 n ++ leBytes 4 0 ++ bs)).reply c Op.rdmem
      Reply.ok []

/-- `LEASE` (R359). -/
def State.cmdLease (s : State) (c : CmdHdr) (action dur : Nat) : State :=
  if action ≠ 2 ∧ (dur < 1000 ∨ 60000000 < dur) then s.cmdViol c
  else
    let s := s.leaseCheck
    let mine := s.holds c.sid
    let held := s.leaseHeld
    let res (s : State) : List W64 := [BitVec.ofNat 64 s.leaseSid, BitVec.ofNat 64 s.leaseEnd]
    if (action = 0 ∧ held ∧ !mine) ∨ (action ≠ 0 ∧ !mine) then
      s.reply c Op.lease Reply.held (if held then res s else [0, 0])
    else if action = 2 then (s.leaseDrop 2).reply c Op.lease Reply.ok [0, 0]
    else
      let s := s.setField Reg.HOST_LEASE 63 32 c.sid.toNat
      let s := s.setReg Reg.HOST_LEASE_EXP (s.cnt + BitVec.ofNat 64 (1000 * dur))
      let s := (s.leaseEvent (if action = 0 ∧ !mine then 0 else 1)).flushStream
      s.reply c Op.lease Reply.ok (res s)

/-- Advance the record ring's tail (R358). -/
def State.cmdHtail (s : State) (c : CmdHdr) (off : Nat) : State :=
  let size := s.hrecSize
  let tail := (s.reg Reg.HOST_HREC_TAIL).toNat
  let adv := if size = 0 then 0 else (off + size - tail) % size
  if !s.holds c.sid || decide (size ≤ off) || decide (s.heats.recUsed < adv) then s.cmdViol c
  else
    let s := s.setReg Reg.HOST_HREC_TAIL (BitVec.ofNat 64 off)
    ({ s with heats := { s.heats with recUsed := s.heats.recUsed - adv } }.retryRecord).reply c Op.htail Reply.ok []

def State.cmdSscredit (s : State) (c : CmdHdr) (n : Nat) : State :=
  if !s.holds c.sid then s.cmdViol c
  else ({ s with host := { s.host with credit := s.host.credit + n } }.flushStream).reply c Op.sscredit Reply.ok []

/-- One bit of the mode table (R400). -/
def State.setMode (s : State) (bit : Nat) (v : Bool) : State :=
  let s := { s with host := { s.host with modeNext := setFld s.host.modeNext bit bit (b2n v) } }
  if bit = 8 ∨ bit = 9 ∨ bit = 11 then (s.setField Reg.SVC_MODE bit bit (b2n v)).flushStream else s

/-- A peer's command is accepted (R360): inside the torus box, and enabled. -/
def State.peerOk (s : State) (d : W16) (rst : Bool) : Bool :=
  let a := d.toNat
  let inBox (k : Nat) : Bool := decide (addrCo a k < s.topo k)
  bitOf (s.reg Reg.HOST_CFG) 0 && (!rst || bitOf (s.reg Reg.HOST_CFG) 1) && a != s.devAddr
    && decide (addrSlot a ≤ 8) && inBox 0 && inBox 1 && inBox 2 && inBox 3

/-- A warm reset by command (R415). -/
def State.cmdReset (s : State) (c : CmdHdr) (once : Bool) : State :=
  match c.peer with
  | some d => if s.peerOk d true then s.warmReset 4 once else s.cmdViol c
  | none => if !s.holds c.sid then s.cmdViol c else (s.reply c Op.reset Reply.ok []).warmReset 3 once

/-- `LAUNCH` (R360, R365): its effect stamp is L. -/
def State.cmdLaunch (s : State) (c : CmdHdr) (heat flags : Nat) : State :=
  let ok := match c.peer with
    | some d => s.peerOk d false
    | none => s.holds c.sid && decide (c.at_.toNat < s.leaseEnd)
  if !ok then s.cmdViol c
  else
    let r := s.takeLaunchCmd
      { heat := heat, l := c.at_, flags := flags % 2, psn := c.psn, rank := if c.peer.isSome then 3 else 2,
        peer := c.peer.getD 0 }
    r.1.reply c Op.launch r.2 []

/-! ## The input log (R367) -/

/-- Entries of the input log. -/
def State.ilogSize (s : State) : Nat := ((s.reg Reg.HOST_ILOG_LIMIT).toNat - (s.reg Reg.HOST_ILOG_BASE).toNat) / 64
def State.ilogFull (s : State) : Bool :=
  s.ilogSize != 0 && (s.reg Reg.HOST_ILOG_SEQ - s.reg Reg.HOST_ILOG_TAIL).toNat == s.ilogSize

/-- Digest of a payload as a `DENSE` INT8 tensor. -/
def payloadDigest (key : BitVec 128) (p : List Byte) : BitVec 128 :=
  digestBits (p.map fun b => (b.toNat, 8)) (Num.Fmt.int8.code * 2 ^ 64) key

/-- Write one entry. A log of length zero takes none. -/
def State.logInput (s : State) (op target : Nat) (payload : List Byte) (key : BitVec 128) : State :=
  if s.ilogSize = 0 then s
  else
    let seq := (s.reg Reg.HOST_ILOG_SEQ).toNat
    let dig := payloadDigest key payload
    let e := leBytes 8 seq ++ leBytes 8 s.cnt.toNat ++ leBytes 2 op ++ leBytes 6 0 ++ leBytes 8 target
      ++ leBytes 4 payload.length ++ leBytes 12 0 ++ leBytes 16 dig.toNat
    let s := (s.store 0 ((s.reg Reg.HOST_ILOG_BASE).toNat + 64 * (seq % s.ilogSize)) e).setReg Reg.HOST_ILOG_SEQ
      (BitVec.ofNat 64 (seq + 1))
    { s with heats := { s.heats with inputs := s.heats.inputs ++ [⟨seq, s.cnt, op, target, payload.length, dig⟩] } }

/-- What becomes of a 64 B unit of a data-in message (R352, R17): it is written, answered with an error response, or outside the HBM
and flask regions. -/
inductive UnitFate where
  | written | errored | outside
  deriving DecidableEq, Repr

def State.unitFate (s : State) (u : Nat) : UnitFate :=
  if s.inRegion (64 * u) 64 fun w => match w with
      | .hbm => true
      | .flask _ => true
      | _ => false
  then (if s.addrErrs (64 * u) then .errored else .written) else .outside

/-- The bytes of unit u that a message of data at addr covers: where they start, and they. -/
def unitBytes (addr : Nat) (data : List Byte) (u : Nat) : Nat × List Byte :=
  let lo := max addr (64 * u)
  (lo, (data.drop (lo - addr)).take (min (addr + data.length) (64 * u + 64) - lo))

/-- Pieces that lie one behind the other are one write (R264). -/
def joinPieces (l : List (Nat × List Byte)) : List (Nat × List Byte) :=
  l.foldr (fun p acc => match acc with
    | q :: t => if p.1 + p.2.length = q.1 then (p.1, p.2 ++ q.2) :: t else p :: acc
    | [] => [p]) []

/-- A data-in message (R352): its units are written, in writes as long as they lie side by side; each unit outside is counted. An error
response is told to the sender (R17, log entry 75). -/
def State.writeData (s : State) (c : CmdHdr) (addr : Nat) (data : List Byte) : State :=
  let us := (List.range ((addr + data.length + 63) / 64 - addr / 64)).map (addr / 64 + ·)
  let ok := us.filter fun u => s.unitFate u == .written
  let t := ((joinPieces (ok.map (unitBytes addr data))).foldl (fun s p => s.store 0 p.1 p.2) s).count Reg.HOST_CNT_VIOL
    (us.filter fun u => s.unitFate u == .outside).length
  if us.any fun u => s.unitFate u == .errored then t.toHost (.error c.sid 2 c.psn) else t

/-- An external input enters the log and has its effect. -/
def State.applyInput (s : State) (i : Instr) : State :=
  match i with
  | .wrreg c off v =>
    (devWrite (s.logInput Op.wrreg off.toNat (leBytes 8 v.toNat) s.heats.key) off.toNat v).reply c Op.wrreg Reply.ok []
  | .seed c sd key base =>
    if s.heatRuns || s.heats.pendingLaunch.isSome then s.reply c Op.seed Reply.busy [] else
    let s := s.logInput Op.seed 0 (leBytes 8 sd.toNat ++ leBytes 16 key.toNat ++ leBytes 8 base.toNat) key
    (s.setSeed sd key base.toNat).reply c Op.seed Reply.ok []
  | .mode c bit v =>
    let s := s.logInput Op.mode Reg.SVC_MODE [bit, v] s.heats.key
    (s.setMode bit.toNat (v == 1)).reply c Op.mode Reply.ok []
  | .dataIn c addr data => (s.logInput 2 addr.toNat data s.heats.key).writeData c addr.toNat data
  | _ => s

/-- An external input: while the log is full it waits, with its effect stamp, and is not acknowledged. -/
def State.input (s : State) (i : Instr) : State :=
  if s.ilogFull || !s.host.waitingIn.isEmpty then
    { s with host := { s.host with waitingIn := s.host.waitingIn ++ [(s.cnt, i)] } }
  else s.applyInput i

/-- The packets of an input that has waited are acknowledged. -/
def State.ackInput (s : State) (i : Instr) : State :=
  match cmdHdr i with
  | some c => if c.peer.isNone then s.acknowledge c.sid (inputClass i) else s
  | none => s

/-- Waiting inputs enter the log while it has room. -/
def pumpInputs : List (W64 × Instr) → State → State
  | [], s => { s with host := { s.host with waitingIn := [] } }
  | x :: t, s =>
    if s.ilogFull then { s with host := { s.host with waitingIn := x :: t } }
    else pumpInputs t ((({ s with host := { s.host with waitingIn := t } }).at_ x.1 fun s => s.applyInput x.2).ackInput x.2)

def State.cmdItail (s : State) (c : CmdHdr) (v : W64) : State :=
  let tail := s.reg Reg.HOST_ILOG_TAIL
  if !s.holds c.sid || v.ult tail || (s.reg Reg.HOST_ILOG_SEQ).ult v then s.cmdViol c
  else
    let s := s.setReg Reg.HOST_ILOG_TAIL v
    (pumpInputs s.host.waitingIn s).reply c Op.itail Reply.ok []

/-! ## Contention (R361) -/

/-- What an order acts on: a register by its offset, a bit of `SVC_MODE`, or what `SEED` sets. -/
def orderTarget (i : Instr) : Option Nat :=
  match i with
  | .wrreg _ off _ => if off.toNat % 8 = 0 then some off.toNat else none
  | .mode _ bit v => if bit.toNat ≤ 12 ∧ v.toNat ≤ 1 then some (2 ^ 32 + bit.toNat) else none
  | .htail _ _ => some Reg.HOST_HREC_TAIL
  | .itail _ _ => some Reg.HOST_ILOG_TAIL
  | .seed _ _ _ _ => some (2 ^ 33)
  | .leaseAcquire _ _ => some Reg.HOST_LEASE
  | .leaseRenew _ _ => some Reg.HOST_LEASE
  | .leaseRelease _ => some Reg.HOST_LEASE
  | _ => none

/-- The holder's order at effect stamp `t`: it loses to an order of the same target and window with a higher `PSN`, and beats
any other; each loser is counted once, and one that still waits is dropped. -/
def State.contend (s : State) (i : Instr) (c : CmdHdr) (t : Nat) : State × Bool :=
  match orderTarget i with
  | none => (s, true)
  | some k =>
    let w := t / 1000
    let old := s.host.orders.filter fun o => decide (s.cnt.toNat / 1000 ≤ o.window)
    match old.find? (fun o => o.target == k && o.window == w) with
    | some o =>
      if o.psn = c.psn then (s, true)
      else if c.psn.ult o.psn then (s.count Reg.HOST_CNT_LOST 1, false)
      else
        let later := s.host.deferred.filter fun d =>
          !(d.1.toNat / 1000 == w && orderTarget d.2 == some k && (cmdHdr d.2).map (·.psn) == some o.psn)
        let s := { s with host := { s.host with
          deferred := later, orders := ⟨k, w, 2, c.psn⟩ :: old.filter fun p => !(p.target == k && p.window == w) } }
        (s.count Reg.HOST_CNT_LOST 1, true)
    | none => ({ s with host := { s.host with orders := ⟨k, w, 2, c.psn⟩ :: old } }, true)

/-- `RESET` with `KIND` 2: the staged image is checked and, if it passes, bring-up goes on from step 4c (R422, R425). -/
def State.bootStaged (s : State) (c : CmdHdr) : State :=
  if s.pwr.st != .bootwait || c.peer.isSome then s.cmdViol c
  else
    let i := parseIngot fun k => s.mem.get (flaskStart 0 + k)
    let code := s.ingotCheck i
    let s := s.reply c Op.reset Reply.ok []
    if code = 0 then s.finishBoot i s.activeIsB true false else s.setField Reg.PWR_BOOT_STATUS 63 56 code

/-! ## Arrival and effect (R357) -/

/-- The command takes effect now. A boot session takes only its own (R425). -/
def State.effect (s : State) (i : Instr) : State :=
  match i with
  | .rdreg c off => s.cmdRdreg c off.toNat
  | .wrreg c off _ => if off.toNat % 8 ≠ 0 || !s.holds c.sid then s.cmdViol c else s.input i
  | .rdmem c a n => s.cmdRdmem c a.toNat n.toNat
  | .leaseAcquire c d => s.cmdLease c 0 d.toNat
  | .leaseRenew c d => s.cmdLease c 1 d.toNat
  | .leaseRelease c => s.cmdLease c 2 0
  | .seed c _ _ _ =>
    if !s.holds c.sid then s.cmdViol c
    else if s.heatRuns || s.heats.pendingLaunch.isSome then s.reply c Op.seed Reply.busy []
    else s.input i
  | .htail c off => s.cmdHtail c off.toNat
  | .itail c v => s.cmdItail c v
  | .sscredit c n => s.cmdSscredit c n.toNat
  | .mode c bit v => if 12 < bit.toNat || 1 < v.toNat || !s.holds c.sid then s.cmdViol c else s.input i
  | .resetWarm c => s.cmdReset c false
  | .resetIdleBank c => s.cmdReset c true
  | .resetStagedBoot c => s.bootStaged c
  | _ => s

/-- A command that only a boot session takes. -/
def bootOnly (i : Instr) : Bool :=
  match i with
  | .resetStagedBoot _ => true
  | _ => false

/-- Op code of a command for a reply on arrival. -/
def opOf (i : Instr) : Nat :=
  match i with
  | .rdreg _ _ => Op.rdreg
  | .wrreg _ _ _ => Op.wrreg
  | .rdmem _ _ _ => Op.rdmem
  | .leaseAcquire _ _ => Op.lease
  | .leaseRenew _ _ => Op.lease
  | .leaseRelease _ => Op.lease
  | .seed _ _ _ _ => Op.seed
  | .launch _ _ _ => Op.launch
  | .htail _ _ => Op.htail
  | .itail _ _ => Op.itail
  | .sscredit _ _ => Op.sscredit
  | .mode _ _ _ => Op.mode
  | _ => Op.reset

/-- Insert a deferred command behind those that take effect no later. -/
def insertDeferred (d : W64 × Instr) (l : List (W64 × Instr)) : List (W64 × Instr) := insertBy (fun a b => a.1.ult b.1) d l

/-- A valid packet of a session has arrived. -/
def State.touch (s : State) (sid : W32) : State :=
  s.setSessions (s.host.sessions.map fun (x : Session) => if x.sid = sid then { x with last := s.cnt } else x)

/-- The sender is known (R356): a session that is open, or a fabric peer. -/
def State.known (s : State) (c : CmdHdr) : Bool := c.peer.isSome || s.openSession c.sid

/-- The management processor takes commands: it is up, or in a boot session. -/
def State.listening (s : State) : Bool := s.pwr.st == .ready || s.pwr.st == .bootwait

/-- A packet of a known sender is taken, with a reserved byte that is not zero counted (R358); a packet of an unknown one is
discarded and counted (R356). -/
def State.gate (s : State) (c : CmdHdr) (f : State → State) : State :=
  if !s.listening then s
  else if !s.known c then s.count Reg.HOST_CNT_BADPKT 1
  else f ((if c.peer.isSome then s else s.touch c.sid).count Reg.HOST_CNT_VIOL (b2n c.rsv))

/-- The order at effect stamp t comes from the lease's holder. -/
def State.holdsAt (s : State) (sid : W32) (t : W64) : Bool := s.holds sid && decide (t.toNat < s.leaseEnd)

/-- A command arrives. A boot session takes none but its own two (R425); a peer only `LAUNCH` and `RESET` (R360). `AT` in the
past is refused, in the future it defers the effect, and zero means now. An order of the holder contends first (R361). -/
def State.command (s : State) (i : Instr) (c : CmdHdr) : State :=
  s.gate c fun s =>
    if (s.pwr.st == .bootwait) != bootOnly i || (c.peer.isSome && opOf i != Op.reset) then s.cmdViol c
    else
      let t := if c.at_ = 0 then s.cnt else c.at_
      if c.at_ ≠ 0 ∧ c.at_.toNat ≤ s.cnt.toNat then s.reply c (opOf i) Reply.late []
      else
        let r := if c.peer.isNone && s.holdsAt c.sid t then s.contend i c t.toNat else (s, true)
        if !r.2 then r.1
        else if c.at_ = 0 then r.1.effect i
        else { r.1 with host := { r.1.host with deferred := insertDeferred (c.at_, i) r.1.host.deferred } }

def execRdreg (c : CmdHdr) (off : W32) (s : State) : Res := .next (s.command (.rdreg c off) c)
def execWrreg (c : CmdHdr) (off : W32) (v : W64) (s : State) : Res := .next (s.command (.wrreg c off v) c)
def execRdmem (c : CmdHdr) (addr : BitVec 48) (len : W32) (s : State) : Res := .next (s.command (.rdmem c addr len) c)
def execLeaseAcquire (c : CmdHdr) (dur : W32) (s : State) : Res := .next (s.command (.leaseAcquire c dur) c)
def execLeaseRenew (c : CmdHdr) (dur : W32) (s : State) : Res := .next (s.command (.leaseRenew c dur) c)
def execLeaseRelease (c : CmdHdr) (s : State) : Res := .next (s.command (.leaseRelease c) c)
def execSeed (c : CmdHdr) (seed : W64) (key : BitVec 128) (base : BitVec 48) (s : State) : Res :=
  .next (s.command (.seed c seed key base) c)
def execHtail (c : CmdHdr) (off : W64) (s : State) : Res := .next (s.command (.htail c off) c)
def execItail (c : CmdHdr) (v : W64) (s : State) : Res := .next (s.command (.itail c v) c)
def execSscredit (c : CmdHdr) (credit : W64) (s : State) : Res := .next (s.command (.sscredit c credit) c)
def execMode (c : CmdHdr) (bit value : Byte) (s : State) : Res := .next (s.command (.mode c bit value) c)
def execResetWarm (c : CmdHdr) (s : State) : Res := .next (s.command (.resetWarm c) c)
def execResetIdleBank (c : CmdHdr) (s : State) : Res := .next (s.command (.resetIdleBank c) c)

/-- Commands whose `AT` the counter has reached take effect, in order, each at its `AT` (R357). -/
def execCommandAtEffect (s : State) : Res :=
  let due := s.host.deferred.filter fun d => decide (d.1.toNat ≤ s.cnt.toNat)
  let s := { s with host := { s.host with deferred := s.host.deferred.filter fun d => !decide (d.1.toNat ≤ s.cnt.toNat) } }
  .next (due.foldl (fun s d => s.at_ d.1 fun s => s.effect d.2) s)

/-- `LAUNCH` is decided on arrival; `AT` is its launch count (R365). Its reserved bytes and flags count once (R16). -/
def State.launchCommand (s : State) (c : CmdHdr) (heat flags : Nat) : State :=
  let c := { c with rsv := c.rsv || flags / 2 != 0 }
  s.gate c fun s =>
    if s.pwr.st == .bootwait then s.cmdViol c else s.cmdLaunch c heat flags

def execLaunch (c : CmdHdr) (heat : BitVec 48) (flags : W16) (s : State) : Res :=
  .next (s.launchCommand c heat.toNat flags.toNat)

/-- A data-in message (R352): the holder's only; while a boot session runs it is `BOOT_DATA_IN`. -/
def State.dataCommand (s : State) (c : CmdHdr) (i : Instr) : State :=
  s.gate c fun s =>
    if s.pwr.st == .bootwait || c.peer.isSome || !s.holds c.sid then s.cmdViol c else s.input i

def execDataIn (c : CmdHdr) (addr : BitVec 48) (data : List Byte) (s : State) : Res :=
  .next (s.dataCommand c (.dataIn c addr data))

/-! ## Boot sessions (R425) -/

/-- Length of the staging area. -/
def stagingSize : Nat := 0x7A00000

/-- Bytes into the staging area in the flask of crucible 0; bytes beyond its end are ignored and counted once. -/
def State.stage (s : State) (off : Nat) (data : List Byte) : State :=
  let fit := data.take (stagingSize - off)
  let s := { s with mem := s.mem.puts (flaskStart 0 + off) fit }
  if fit.length = data.length then s else s.hostViol

def State.bootData (s : State) (c : CmdHdr) (off : Nat) (data : List Byte) : State :=
  s.gate c fun s =>
    if s.pwr.st == .bootwait && c.peer.isNone then s.stage off data else s.cmdViol c

def execBootDataIn (c : CmdHdr) (off : W32) (data : List Byte) (s : State) : Res := .next (s.bootData c off.toNat data)

def execResetStagedBoot (c : CmdHdr) (s : State) : Res := .next (s.command (.resetStagedBoot c) c)

/-! ## Packets and frames (R349 to R352, R355, R358) -/

/-- Run a command or message of a session. -/
def State.runMessage (s : State) (i : Instr) : State :=
  match i with
  | .launch c h f => s.launchCommand c h.toNat f.toNat
  | .dataIn c _ _ => s.dataCommand c i
  | .bootDataIn c off d => s.bootData c off.toNat d
  | i => match cmdHdr i with
    | some c => s.command i c
    | none => s

/-- A command payload (R357, R358); none for an `OP` or an argument code that names no command. -/
def parseCommand (sid : W32) (psn : Nat) (b : List Byte) : Option Instr :=
  let at_ (a n : Nat) : Nat := leNat ((b.drop a).take n)
  let w (a : Nat) : W64 := BitVec.ofNat 64 (at_ a 8)
  let h (rsv : Nat) : CmdHdr :=
    { sid := sid, psn := BitVec.ofNat 64 psn, at_ := w 8, rsv := at_ 2 6 + rsv != 0, peer := none }
  let need (n : Nat) (i : Instr) : Option Instr := if b.length < n then none else some i
  match at_ 0 2 with
  | 0x01 => need 24 (.rdreg (h (at_ 20 4)) (BitVec.ofNat 32 (at_ 16 4)))
  | 0x02 => need 32 (.wrreg (h (at_ 20 4)) (BitVec.ofNat 32 (at_ 16 4)) (w 24))
  | 0x03 => need 32 (.rdmem (h (at_ 22 2 + at_ 28 4)) (BitVec.ofNat 48 (at_ 16 6)) (BitVec.ofNat 32 (at_ 24 4)))
  | 0x10 => match at_ 16 1 with
    | 0 => need 24 (.leaseAcquire (h (at_ 17 3)) (BitVec.ofNat 32 (at_ 20 4)))
    | 1 => need 24 (.leaseRenew (h (at_ 17 3)) (BitVec.ofNat 32 (at_ 20 4)))
    | 2 => need 24 (.leaseRelease (h (at_ 17 3)))
    | _ => none
  | 0x20 => need 48 (.seed (h (at_ 46 2)) (w 16) (BitVec.ofNat 128 (at_ 24 16)) (BitVec.ofNat 48 (at_ 40 6)))
  | 0x21 => need 32 (.launch (h (at_ 22 2 + at_ 26 6)) (BitVec.ofNat 48 (at_ 16 6)) (BitVec.ofNat 16 (at_ 24 2)))
  | 0x22 => need 24 (.htail (h 0) (w 16))
  | 0x23 => need 24 (.sscredit (h 0) (w 16))
  | 0x24 => need 24 (.itail (h 0) (w 16))
  | 0x30 => need 24 (.mode (h (at_ 18 6)) (BitVec.ofNat 8 (at_ 16 1)) (BitVec.ofNat 8 (at_ 17 1)))
  | 0x40 => match at_ 16 1 with
    | 0 => need 24 (.resetWarm (h (at_ 17 7)))
    | 1 => need 24 (.resetIdleBank (h (at_ 17 7)))
    | 2 => need 24 (.resetStagedBoot (h (at_ 17 7)))
    | _ => none
  | _ => none

/-- A data-in message (R352): its prefix and its bytes. -/
def parseData (boot : Bool) (sid : W32) (psn : Nat) (b : List Byte) : Option Instr :=
  let at_ (a n : Nat) : Nat := leNat ((b.drop a).take n)
  let n := at_ 8 4
  let c : CmdHdr := { sid := sid, psn := BitVec.ofNat 64 psn, at_ := 0, rsv := at_ 6 2 + at_ 12 4 != 0, peer := none }
  if b.length < 16 + n then none
  else if boot then some (.bootDataIn c (BitVec.ofNat 32 (at_ 0 6)) ((b.drop 16).take n))
  else some (.dataIn c (BitVec.ofNat 48 (at_ 0 6)) ((b.drop 16).take n))

/-- Whole messages are acted on in order; one that names no command is a violation. -/
def State.deliverMessages (s : State) (sid : W32) (cls : Nat) (ms : List (Nat × List Byte)) : State :=
  ms.foldl (fun s m =>
    let i := if cls = 1 then parseCommand sid m.1 m.2 else parseData (s.pwr.st == .bootwait) sid m.1 m.2
    match i with
    | some i => s.runMessage i
    | none => s.hostViol) s

/-- A packet from the host is opened with the session's key; none when its tag fails. -/
def openPacket (x : Session) (p : GoengoPkt) : Option (List Byte) :=
  Config.gcmOpen (x.keys.take 32) (goengoNonce ((x.keys.drop 64).take 12) p.cls.toNat p.psn.toNat) (goengoHeader p) p.payload
    p.tag

/-- Handshake messages are known by their lengths; `FINISH` belongs to the last handshake begun. -/
def State.handshake (s : State) (b : List Byte) : State :=
  let part (a n : Nat) : List Byte := (b.drop a).take n
  let r := if b.length = 3232 then execHello (part 0 32) (part 32 1184) (part 1216 32) (part 1248 32) (part 1280 1952) s
    else if b.length = 3373 then
      match (s.host.sessions.filter fun x => !x.opened).getLast? with
      | some x => execFinish x.sid (part 0 64) (part 64 3309) s
      | none => .next s
    else .next s
  match r with
  | .next t => t
  | _ => s

/-- A Goengo packet arrives (R350, R351, R355, R356). -/
def State.goengo (s : State) (p : GoengoPkt) : State :=
  let cls := p.cls.toNat
  if p.ver ≠ 1 ∨ 5 < cls ∨ 8192 < p.payload.length then s
  else if cls = 0 then s.handshake p.payload
  else match s.host.session p.sid with
    | none => s.count Reg.HOST_CNT_BADPKT 1
    | some x => match openPacket x p with
      | none => s.count Reg.HOST_CNT_BADPKT 1
      | some b =>
        if 2 ^ 48 ≤ p.psn.toNat then s.endSession p.sid
        else
          let s := s.touch p.sid
          let s := if p.ackv then s.takeAck p.sid cls p.ack p.sack else s
          if b = [] ∨ 2 < cls then s
          else match s.session p.sid with
            | none => s
            | some x =>
              let r := (x.chan cls).receive p.psn.toNat p.last b
              let s := s.setSessions (s.host.sessions.map fun (y : Session) => if y.sid = p.sid then x.setChan r.1 else y)
              (s.deliverMessages p.sid cls r.2).acknowledge p.sid cls

def execGoengoPacket (p : GoengoPkt) (s : State) : Res := .next (if s.listening then s.goengo p else s)

/-- The packet in a UDP payload; none if it is too short. -/
def parseGoengo (b : List Byte) : Option GoengoPkt :=
  let at_ (a n : Nat) : Nat := leNat ((b.drop a).take n).reverse
  let w0 := at_ 0 8
  let n := bits w0 47 32
  let cls := bits w0 59 56
  let tag := if cls = 0 then 0 else 16
  if b.length < 32 + n + tag then none
  else some
    { ver := BitVec.ofNat 4 (bits w0 63 60), cls := BitVec.ofNat 4 cls, ackv := bits w0 55 55 == 1, retx := bits w0 54 54 == 1,
      last := bits w0 53 53 == 1, rsv0 := BitVec.ofNat 5 (bits w0 52 48), sid := BitVec.ofNat 32 (bits w0 31 0), psn := BitVec.ofNat 64 (at_ 8 8),
      ack := BitVec.ofNat 64 (at_ 16 8), sack := BitVec.ofNat 32 (at_ 24 4), rsv3 := BitVec.ofNat 32 (at_ 28 4), payload := (b.drop 32).take n,
      tag := (b.drop (32 + n)).take tag }

/-- A frame arrives at the MAC (R349): ARP, neighbour discovery and echo are answered, Goengo goes to its port, everything else
is discarded. -/
def State.frameIn (s : State) (f : Frame) : State :=
  if !bitOf (s.reg Reg.HOST_STATUS) 0 ∨ 9216 < f.len.toNat ∨ 1 < f.tags.toNat then s
  else match f.kind with
    | .arp => s.toHost (.frame f.kind f.payload)
    | .neighbour => s.toHost (.frame f.kind f.payload)
    | .echo => s.toHost (.frame f.kind f.payload)
    | .goengo =>
      if f.port.toNat ≠ s.field Reg.HOST_UDP 15 0 ∨ !s.listening then s
      else match parseGoengo f.payload with
        | some p => s.goengo p
        | none => s
    | .pause => s
    | .other => s

def execEthernetFrame (f : Frame) (s : State) : Res := .next (s.frameIn f)

end Sys2Proof.Machine
end

