-- ==== Sys2Proof/Machine/Scalar.lean ====
section
/-! DEFINITION. Scalar integer and scalar binary32 instructions (R171, R202 to R204). Each is a guarded step of the pair
(R200) that writes one x register and moves the PC on by one. -/
namespace Sys2Proof.Machine

/-- Second operand of class 0x01 (R202). -/
def aluB (o : AluOps) (m : Mould) : W64 :=
  match o.src with
  | .reg rb => m.getX rb.toNat
  | .imm v => v.signExtend 64

/-- rd ← f(a, b) for class 0x01. -/
def aluStep (h : Hdr) (o : AluOps) (f : W64 → W64 → W64) (s : State) : State :=
  pairLocal h s fun m => m.setX o.rd.toNat (f (m.getX o.ra.toNat) (aluB o m))

/-- R171: unsigned quotient; division by zero gives all ones. -/
def divuOp (a b : W64) : W64 := if b = 0 then BitVec.allOnes 64 else a / b
/-- R171: unsigned remainder; division by zero gives the dividend. -/
def remuOp (a b : W64) : W64 := if b = 0 then a else a % b
/-- R171: signed quotient truncated toward zero; by zero all ones; −2⁶³ by −1 gives −2⁶³. -/
def divOp (a b : W64) : W64 := if b = 0 then BitVec.allOnes 64 else a.sdiv b
/-- R171: remainder with the sign of a; by zero the dividend; −2⁶³ by −1 gives 0. -/
def remOp (a b : W64) : W64 := if b = 0 then a else a.srem b
/-- High 64 bits of the unsigned product. -/
def mulhuOp (a b : W64) : W64 := BitVec.ofNat 64 (a.toNat * b.toNat / 2 ^ 64)
/-- High 64 bits of the signed product. -/
def mulhOp (a b : W64) : W64 := BitVec.ofInt 64 (a.toInt * b.toInt / 2 ^ 64)
/-- The shift amount b[5:0]. -/
def shamt (b : W64) : Nat := b.toNat % 64
def minOp (a b : W64) : W64 := if b.slt a then b else a
def maxOp (a b : W64) : W64 := if a.slt b then b else a
def minuOp (a b : W64) : W64 := if b.ult a then b else a
def maxuOp (a b : W64) : W64 := if a.ult b then b else a

def execAdd (h : Hdr) (o : AluOps) (s : State) : Res := .next (aluStep h o (· + ·) s)
def execSub (h : Hdr) (o : AluOps) (s : State) : Res := .next (aluStep h o (· - ·) s)
def execAnd (h : Hdr) (o : AluOps) (s : State) : Res := .next (aluStep h o (· &&& ·) s)
def execOr (h : Hdr) (o : AluOps) (s : State) : Res := .next (aluStep h o (· ||| ·) s)
def execXor (h : Hdr) (o : AluOps) (s : State) : Res := .next (aluStep h o (· ^^^ ·) s)
def execShl (h : Hdr) (o : AluOps) (s : State) : Res := .next (aluStep h o (fun a b => a <<< shamt b) s)
def execShr (h : Hdr) (o : AluOps) (s : State) : Res := .next (aluStep h o (fun a b => a >>> shamt b) s)
def execSra (h : Hdr) (o : AluOps) (s : State) : Res := .next (aluStep h o (fun a b => a.sshiftRight (shamt b)) s)
def execMul (h : Hdr) (o : AluOps) (s : State) : Res := .next (aluStep h o (· * ·) s)
def execMulhu (h : Hdr) (o : AluOps) (s : State) : Res := .next (aluStep h o mulhuOp s)
def execMulh (h : Hdr) (o : AluOps) (s : State) : Res := .next (aluStep h o mulhOp s)
def execDivu (h : Hdr) (o : AluOps) (s : State) : Res := .next (aluStep h o divuOp s)
def execDiv (h : Hdr) (o : AluOps) (s : State) : Res := .next (aluStep h o divOp s)
def execRemu (h : Hdr) (o : AluOps) (s : State) : Res := .next (aluStep h o remuOp s)
def execRem (h : Hdr) (o : AluOps) (s : State) : Res := .next (aluStep h o remOp s)
def execMin (h : Hdr) (o : AluOps) (s : State) : Res := .next (aluStep h o minOp s)
def execMax (h : Hdr) (o : AluOps) (s : State) : Res := .next (aluStep h o maxOp s)
def execMinu (h : Hdr) (o : AluOps) (s : State) : Res := .next (aluStep h o minuOp s)
def execMaxu (h : Hdr) (o : AluOps) (s : State) : Res := .next (aluStep h o maxuOp s)

/-- (`IMM32` << 32) OR (a AND 0xFFFF_FFFF) (R203). -/
def lihOp (imm : W32) (a : W64) : W64 := (imm.setWidth 64 <<< 32) ||| (a &&& 0xFFFFFFFF)

def execLih (h : Hdr) (o : ImmOps) (s : State) : Res :=
  .next (pairLocal h s fun m => m.setX o.rd.toNat (lihOp o.imm (m.getX o.ra.toNat)))

/-- rd[31:0] ← f(a, b, c), rd[63:32] ← 0, on the low halves of the sources (R204). -/
def fpStep (h : Hdr) (o : FpOps) (f : W32 → W32 → W32 → W32) (s : State) : State :=
  pairLocal h s fun m =>
    m.setX o.rd.toNat ((f ((m.getX o.ra.toNat).setWidth 32) ((m.getX o.rb.toNat).setWidth 32)
      ((m.getX o.rc.toNat).setWidth 32)).setWidth 64)

def execFadd (h : Hdr) (o : FpOps) (s : State) : Res := .next (fpStep h o (fun a b _ => Fp32.add false a b) s)
def execFsub (h : Hdr) (o : FpOps) (s : State) : Res := .next (fpStep h o (fun a b _ => Fp32.sub false a b) s)
def execFmul (h : Hdr) (o : FpOps) (s : State) : Res := .next (fpStep h o (fun a b _ => Fp32.mul false a b) s)
def execFma (h : Hdr) (o : FpOps) (s : State) : Res := .next (fpStep h o (fun a b c => Fp32.fma false a b c) s)
def execFmin (h : Hdr) (o : FpOps) (s : State) : Res := .next (fpStep h o (fun a b _ => Fp32.fmin a b) s)
def execFmax (h : Hdr) (o : FpOps) (s : State) : Res := .next (fpStep h o (fun a b _ => Fp32.fmax a b) s)
def execFabs (h : Hdr) (o : FpOps) (s : State) : Res := .next (fpStep h o (fun a _ _ => Fp32.abs a) s)
def execFneg (h : Hdr) (o : FpOps) (s : State) : Res := .next (fpStep h o (fun a _ _ => Fp32.neg a) s)

/-- `FTOI` writes all 64 bits (R204). -/
def execFtoi (h : Hdr) (o : FpOps) (s : State) : Res :=
  .next (pairLocal h s fun m =>
    m.setX o.rd.toNat (BitVec.ofInt 64 (Fp32.toInt 64 ((m.getX o.ra.toNat).setWidth 32))))

/-- `ITOF` reads all 64 bits as i64 (R204). -/
def execItof (h : Hdr) (o : FpOps) (s : State) : Res :=
  .next (pairLocal h s fun m => m.setX o.rd.toNat ((Fp32.ofInt (m.getX o.ra.toNat).toInt).setWidth 64))

end Sys2Proof.Machine
end

