-- ==== Sys2Proof/Machine/Smbus.lean ====
section
/-! DEFINITION. The management bus (R436, R441 to R443) and the tick of the system counter (R11) with what happens as time
passes. -/
namespace Sys2Proof.Machine

/-! ## Management bus -/

/-- The module answers on the bus while its standby domain runs. -/
def State.busReply (s : State) (bs : List Byte) : State :=
  if s.pwr.standby then { s with pwr := { s.pwr with smbus := s.pwr.smbus ++ [bs] } } else s

/-- The module's 7-bit address (R440, R441). -/
def Power.busAddr (p : Power) : Byte := 0x40 + p.slotStrap.setWidth 8

/-- The packet error code of SMBus: the CRC-8 with polynomial x^8 + x^2 + x + 1 over every byte of the transfer (log entry 80). -/
def packetErrorCode (bs : List Byte) : Byte :=
  bs.foldl (fun c b => (List.range 8).foldl (fun c _ => if c.msb then (c <<< 1) ^^^ 0x07 else c <<< 1) (c ^^^ b)) 0

/-- What the module drives in a block read of a code: the byte count, the bytes, and the PEC byte (R441, R442). -/
def Power.blockRead (p : Power) (code : Byte) (bs : List Byte) : List Byte :=
  let body := BitVec.ofNat 8 bs.length :: bs
  body ++ [packetErrorCode ([p.busAddr <<< 1, code, (p.busAddr <<< 1) ||| 1] ++ body)]

/-- A block read. -/
def State.busRead (s : State) (code : Byte) (bs : List Byte) : State := s.busReply (s.pwr.blockRead code bs)

/-- Bytes of registers as a read sees them. -/
def viewBytes (s : State) (offs : List Nat) : List Byte := offs.flatMap fun o => leBytes 8 (devView s o).toNat

def execStatus (s : State) : Res := .next (s.busRead 0x01 (viewBytes s [Reg.PWR_STATUS, Reg.PWR_INPUT]))
def execTemps (s : State) : Res :=
  .next (s.busRead 0x02 ((List.range 24).map fun i => if i < 21 then BitVec.ofNat 8 (tempAt s.pwr.temps i) else 0))
def execCapacity (s : State) : Res := .next (s.busRead 0x03 (viewBytes s [Reg.SVC_CAPACITY]))
def execBoot (s : State) : Res := .next (s.busRead 0x04 (viewBytes s [Reg.PWR_BOOT_STATUS, Reg.PWR_RST_CAUSE]))

/-- The read clears the bits and releases `ALERT_N` (R443). -/
def execAlertCause (s : State) : Res :=
  let t := s.busRead 0x08 (leBytes 4 s.pwr.alert.toNat)
  .next (if s.pwr.standby then { t with pwr := { t.pwr with alert := 0 } } else s)

/-- The Alert Response Address 0x0C is answered with the module's own, in the byte's upper seven bits, while `ALERT_N` is low; the
lowest bit is open (log entry 80). -/
def execAlertResponse (s : State) : Res :=
  .next (if s.pwr.alert = 0 ∨ s.pwr.standby = false then s
    else
      let f := s.freshBit
      let b : Byte := (s.pwr.busAddr <<< 1) ||| BitVec.ofNat 8 (b2n f.1)
      f.2.busReply [b, packetErrorCode [0x19, b]])

/-- A write of the read pointer; above 255 it is ignored and counted. -/
def State.identPtrWrite (s : State) (v : W16) : State :=
  if !s.pwr.standby then s
  else if 255 < v.toNat then s.count Reg.HOST_CNT_VIOL 1
  else { s with pwr := { s.pwr with identPtr := v.setWidth 8 } }

def execIdentPtr (v : W16) (s : State) : Res := .next (s.identPtrWrite v)

/-- 32 B of the certificate at the pointer, which then advances and wraps. -/
def execIdentRead (s : State) : Res :=
  .next (if s.pwr.standby then
      let t := s.busRead 0x11 (s.identBytes (32 * s.pwr.identPtr.toNat) 32)
      { t with pwr := { t.pwr with identPtr := s.pwr.identPtr + 1 } }
    else s)

/-- A write to a code other than 0x10 is ignored and counted; to 0x10 it is `IDENT_PTR`. -/
def execSmbusWriteIgnored (code : Byte) (v : W16) (s : State) : Res :=
  .next (if code = 0x10 then s.identPtrWrite v else if s.pwr.standby then s.count Reg.HOST_CNT_VIOL 1 else s)

/-! ## Pins (R436) -/

/-- `READY`. -/
def State.readyPin (s : State) : Bool := s.pwr.st == .ready
/-- `ALERT_N`. -/
def State.alertN (s : State) : Bool := s.pwr.alert == 0
/-- `THERMTRIP_N`. -/
def State.thermtripN (s : State) : Bool := !s.pwr.thermtrip

/-! ## Time (R11) -/

/-- Counts of a reference period by its place in a group of five. -/
def tickStep (phase : Nat) : Nat := if phase % 5 = 1 ∨ phase % 5 = 3 then 7 else 6

/-- Ticks that a mould's performance counters take in: waits on a full queue or a pending summary, and engines with
work (R127, R162, R193). -/
def Mould.perfTick (m : Mould) (n : Nat) : Mould :=
  let waits := match m.wait with
    | .room _ _ => true
    | .sumGet _ _ => true
    | .sumBranch _ _ _ _ => true
    | _ => false
  let add (off : Nat) (b : Bool) (m : Mould) : Mould := m.count off (if b then n else 0)
  add Reg.PAT_PERF_RIDDLE (m.headWorks 2) (add Reg.VEC_PERF_BUSY m.launchRuns (add Reg.MENG_PERF_BUSY (m.headWorks 0)
    (add Reg.CTL_PERF_WAIT waits m)))

/-- One reference period: the counter advances by 6 or 7 counts, one more or less while it is slewed; performance counters
run, masked faults that have waited are reported, and the messages that wait to leave are sent (R318). -/
def State.tick (s : State) : State :=
  let n := (Int.ofNat (tickStep s.phase) + s.runner.slew).toNat
  let s := { s with cnt := s.cnt + BitVec.ofNat 64 n, phase := (s.phase + 1) % 5
                    runner := { s.runner with slew := 0 }
                    moulds := s.moulds.map fun (e : Nat × Mould) => (e.1, e.2.perfTick n) }
  let s := (List.range 8).foldl (fun s r =>
    if (s.riser r).executing then s.count (riserOff r Reg.RISER_PERF_BUSY) n else s) s
  s.flushMasked.sendMessages.endSpent

def execSystemCounterTick (s : State) : Res := .next (if s.pwr.standby then s.tick else s)

end Sys2Proof.Machine
end

