-- ==== Sys2Proof/Machine/Dispatch.lean ====
section
/-! DEFINITION. One arm per command: a direct call of its meaning. -/
namespace Sys2Proof.Machine

def exec (i : Instr) (s : State) : Host.Outcome State Fault Refusal :=
  match i with
  | .add h o => Sys2Proof.Machine.execAdd h o s
  | .sub h o => Sys2Proof.Machine.execSub h o s
  | .and_ h o => Sys2Proof.Machine.execAnd h o s
  | .or_ h o => Sys2Proof.Machine.execOr h o s
  | .xor_ h o => Sys2Proof.Machine.execXor h o s
  | .shl h o => Sys2Proof.Machine.execShl h o s
  | .shr h o => Sys2Proof.Machine.execShr h o s
  | .sra h o => Sys2Proof.Machine.execSra h o s
  | .mul h o => Sys2Proof.Machine.execMul h o s
  | .mulhu h o => Sys2Proof.Machine.execMulhu h o s
  | .mulh h o => Sys2Proof.Machine.execMulh h o s
  | .divu h o => Sys2Proof.Machine.execDivu h o s
  | .div h o => Sys2Proof.Machine.execDiv h o s
  | .remu h o => Sys2Proof.Machine.execRemu h o s
  | .rem h o => Sys2Proof.Machine.execRem h o s
  | .min h o => Sys2Proof.Machine.execMin h o s
  | .max h o => Sys2Proof.Machine.execMax h o s
  | .minu h o => Sys2Proof.Machine.execMinu h o s
  | .maxu h o => Sys2Proof.Machine.execMaxu h o s
  | .lih h o => Sys2Proof.Machine.execLih h o s
  | .fadd h o => Sys2Proof.Machine.execFadd h o s
  | .fsub h o => Sys2Proof.Machine.execFsub h o s
  | .fmul h o => Sys2Proof.Machine.execFmul h o s
  | .fma h o => Sys2Proof.Machine.execFma h o s
  | .fmin h o => Sys2Proof.Machine.execFmin h o s
  | .fmax h o => Sys2Proof.Machine.execFmax h o s
  | .fabs h o => Sys2Proof.Machine.execFabs h o s
  | .fneg h o => Sys2Proof.Machine.execFneg h o s
  | .ftoi h o => Sys2Proof.Machine.execFtoi h o s
  | .itof h o => Sys2Proof.Machine.execItof h o s
  | .pset h pd ra rb cond => Sys2Proof.Machine.execPset h pd ra rb cond s
  | .pseti h pd ra cond imm => Sys2Proof.Machine.execPseti h pd ra cond imm s
  | .plog h pd pa pb tt => Sys2Proof.Machine.execPlog h pd pa pb tt s
  | .br h target => Sys2Proof.Machine.execBr h target s
  | .jal h rd target => Sys2Proof.Machine.execJal h rd target s
  | .jr h ra => Sys2Proof.Machine.execJr h ra s
  | .bsum h sk cond ra target => Sys2Proof.Machine.execBsum h sk cond ra target s
  | .sget h rd sk => Sys2Proof.Machine.execSget h rd sk s
  | .ldb h o => Sys2Proof.Machine.execLdb h o s
  | .ldbu h o => Sys2Proof.Machine.execLdbu h o s
  | .ldh h o => Sys2Proof.Machine.execLdh h o s
  | .ldhu h o => Sys2Proof.Machine.execLdhu h o s
  | .ldw h o => Sys2Proof.Machine.execLdw h o s
  | .ldwu h o => Sys2Proof.Machine.execLdwu h o s
  | .ldd h o => Sys2Proof.Machine.execLdd h o s
  | .stb h o => Sys2Proof.Machine.execStb h o s
  | .sth h o => Sys2Proof.Machine.execSth h o s
  | .stw h o => Sys2Proof.Machine.execStw h o s
  | .std h o => Sys2Proof.Machine.execStd h o s
  | .mrld h o => Sys2Proof.Machine.execMrld h o s
  | .mrst h o => Sys2Proof.Machine.execMrst h o s
  | .ldoc h o => Sys2Proof.Machine.execLdoc h o s
  | .dmk h o => Sys2Proof.Machine.execDmk h o s
  | .dsave h o => Sys2Proof.Machine.execDsave h o s
  | .dcopy h o => Sys2Proof.Machine.execDcopy h o s
  | .doff h o => Sys2Proof.Machine.execDoff h o s
  | .dext h o => Sys2Proof.Machine.execDext h o s
  | .dtid h o => Sys2Proof.Machine.execDtid h o s
  | .move h o => Sys2Proof.Machine.execMove h o s
  | .mfill h o => Sys2Proof.Machine.execMfill h o s
  | .tbload h o => Sys2Proof.Machine.execTbload h o s
  | .qsig h q tk => Sys2Proof.Machine.execQsig h q tk s
  | .tokenSignal m tk => Sys2Proof.Machine.execTokenSignal m tk s
  | .qwait h q tk => Sys2Proof.Machine.execQwait h q tk s
  | .qwaitRelease m q => Sys2Proof.Machine.execQwaitRelease m q s
  | .fence h qmask => Sys2Proof.Machine.execFence h qmask s
  | .fenceRelease m => Sys2Proof.Machine.execFenceRelease m s
  | .barrier h bid device ra => Sys2Proof.Machine.execBarrier h bid device ra s
  | .barrierRelease device c bid => Sys2Proof.Machine.execBarrierRelease device c bid s
  | .hwait h rd => Sys2Proof.Machine.execHwait h rd s
  | .hend h => Sys2Proof.Machine.execHend h s
  | .cnt h rd => Sys2Proof.Machine.execCnt h rd s
  | .digest h da ra rec label => Sys2Proof.Machine.execDigest h da ra rec label s
  | .chkst h rd => Sys2Proof.Machine.execChkst h rd s
  | .chkinj h sel => Sys2Proof.Machine.execChkinj h sel s
  | .reservedOpcode h => Sys2Proof.Machine.execReservedOpcode h s
  | .queueRoom m => Sys2Proof.Machine.execQueueRoom m s
  | .summaryPost m sk => Sys2Proof.Machine.execSummaryPost m sk s
  | .lockstepMismatch m => Sys2Proof.Machine.execLockstepMismatch m s
  | .spmm h o => Sys2Proof.Machine.execSpmm h o s
  | .spmmt h o => Sys2Proof.Machine.execSpmmt h o s
  | .spout h o => Sys2Proof.Machine.execSpout h o s
  | .sprobe h o => Sys2Proof.Machine.execSprobe h o s
  | .dmm h o => Sys2Proof.Machine.execDmm h o s
  | .accwr h o => Sys2Proof.Machine.execAccwr h o s
  | .accld h o => Sys2Proof.Machine.execAccld h o s
  | .overflowRecompute m => Sys2Proof.Machine.execOverflowRecompute m s
  | .checkMismatch m sel again => Sys2Proof.Machine.execCheckMismatch m sel again s
  | .ftqPush m => Sys2Proof.Machine.execFtqPush m s
  | .ftqControlFault m => Sys2Proof.Machine.execFtqControlFault m s
  | .vecCfgWrite m v => Sys2Proof.Machine.execVecCfgWrite m v s
  | .ftqEnableEffect m => Sys2Proof.Machine.execFtqEnableEffect m s
  | .mengCfgWrite m v => Sys2Proof.Machine.execMengCfgWrite m v s
  | .prune h o => Sys2Proof.Machine.execPrune h o s
  | .grow h o => Sys2Proof.Machine.execGrow h o s
  | .compact h o => Sys2Proof.Machine.execCompact h o s
  | .compactResume m => Sys2Proof.Machine.execCompactResume m s
  | .epload h slot ra => Sys2Proof.Machine.execEpload h slot ra s
  | .vrun h o => Sys2Proof.Machine.execVrun h o s
  | .rscat h o => Sys2Proof.Machine.execRscat h o s
  | .agath h o => Sys2Proof.Machine.execAgath h o s
  | .ared h o => Sys2Proof.Machine.execAred h o s
  | .a2a h o => Sys2Proof.Machine.execA2a h o s
  | .rnorm h o => Sys2Proof.Machine.execRnorm h o s
  | .rsel h o => Sys2Proof.Machine.execRsel h o s
  | .dispatch h o => Sys2Proof.Machine.execDispatch h o s
  | .return_ h o => Sys2Proof.Machine.execReturn h o s
  | .combine h o => Sys2Proof.Machine.execCombine h o s
  | .gather h o => Sys2Proof.Machine.execGather h o s
  | .scatter h o => Sys2Proof.Machine.execScatter h o s
  | .tskip h o => Sys2Proof.Machine.execTskip h o s
  | .rupd h o => Sys2Proof.Machine.execRupd h o s
  | .rprog h pslot ra rsr => Sys2Proof.Machine.execRprog h pslot ra rsr s
  | .rfetch h dd da sk => Sys2Proof.Machine.execRfetch h dd da sk s
  | .raudit h dw sk => Sys2Proof.Machine.execRaudit h dw sk s
  | .fetchServe k tid chunk peer => Sys2Proof.Machine.execFetchServe k tid chunk peer s
  | .mismatchReport k tid chunk peer => Sys2Proof.Machine.execMismatchReport k tid chunk peer s
  | .riserResume k => Sys2Proof.Machine.execRiserResume k s
  | .riserCheckMismatch k again => Sys2Proof.Machine.execRiserCheckMismatch k again s
  | .regionAllocate n v => Sys2Proof.Machine.execRegionAllocate n v s
  | .regionFree n v => Sys2Proof.Machine.execRegionFree n v s
  | .regionHintChange n v => Sys2Proof.Machine.execRegionHintChange n v s
  | .regionDrainComplete n => Sys2Proof.Machine.execRegionDrainComplete n s
  | .flaskSplitRequest c v => Sys2Proof.Machine.execFlaskSplitRequest c v s
  | .flaskSplitApply c => Sys2Proof.Machine.execFlaskSplitApply c s
  | .thermalSample temps => Sys2Proof.Machine.execThermalSample temps s
  | .scrub => Sys2Proof.Machine.execScrub s
  | .streamRingConfig limit v => Sys2Proof.Machine.execStreamRingConfig limit v s
  | .streamTailWrite v => Sys2Proof.Machine.execStreamTailWrite v s
  | .portEnable p => Sys2Proof.Machine.execPortEnable p s
  | .portDrain p => Sys2Proof.Machine.execPortDrain p s
  | .portDrainComplete p => Sys2Proof.Machine.execPortDrainComplete p s
  | .portTrainingComplete p peerDev peerPort times => Sys2Proof.Machine.execPortTrainingComplete p peerDev peerPort times s
  | .portTrainingTimeout p => Sys2Proof.Machine.execPortTrainingTimeout p s
  | .portRetryTimer p => Sys2Proof.Machine.execPortRetryTimer p s
  | .packetArrival p pkt => Sys2Proof.Machine.execPacketArrival p pkt s
  | .linkNak p seq => Sys2Proof.Machine.execLinkNak p seq s
  | .creditReturn p vc flits ack => Sys2Proof.Machine.execCreditReturn p vc flits ack s
  | .portFailure p why => Sys2Proof.Machine.execPortFailure p why s
  | .e2eResend dest seq => Sys2Proof.Machine.execE2eResend dest seq s
  | .linkStateMessage src num links => Sys2Proof.Machine.execLinkStateMessage src num links s
  | .destinationUnreachable dev => Sys2Proof.Machine.execDestinationUnreachable dev s
  | .remoteReadRequest src region addr len => Sys2Proof.Machine.execRemoteReadRequest src region addr len s
  | .timeExchange p depth master hasMaster stamps => Sys2Proof.Machine.execTimeExchange p depth master hasMaster stamps s
  | .noMasterTimeout => Sys2Proof.Machine.execNoMasterTimeout s
  | .collectiveSlotGrant grp cseq => Sys2Proof.Machine.execCollectiveSlotGrant grp cseq s
  | .collectiveHeader grp cseq rank hd => Sys2Proof.Machine.execCollectiveHeader grp cseq rank hd s
  | .exponentCode grp cseq rank codes => Sys2Proof.Machine.execExponentCode grp cseq rank codes s
  | .alignmentCode grp cseq owner codes => Sys2Proof.Machine.execAlignmentCode grp cseq owner codes s
  | .partialWindow grp cseq rank windows => Sys2Proof.Machine.execPartialWindow grp cseq rank windows s
  | .resultGather grp cseq rank results => Sys2Proof.Machine.execResultGather grp cseq rank results s
  | .exportArrival m => Sys2Proof.Machine.execExportArrival m s
  | .collectiveTimeout grp cseq => Sys2Proof.Machine.execCollectiveTimeout grp cseq s
  | .dispatchCount rseq dev base counts => Sys2Proof.Machine.execDispatchCount rseq dev base counts s
  | .dispatchRow rseq expert slot tag codes scales => Sys2Proof.Machine.execDispatchRow rseq expert slot tag codes scales s
  | .returnRow rseq token rank codes => Sys2Proof.Machine.execReturnRow rseq token rank codes s
  | .ethernetFrame f => Sys2Proof.Machine.execEthernetFrame f s
  | .goengoPacket p => Sys2Proof.Machine.execGoengoPacket p s
  | .hostRetransmit sid cls => Sys2Proof.Machine.execHostRetransmit sid cls s
  | .hello x25519 mlkem nonce ed25519 mldsa => Sys2Proof.Machine.execHello x25519 mlkem nonce ed25519 mldsa s
  | .finish sid sigEd sigMl => Sys2Proof.Machine.execFinish sid sigEd sigMl s
  | .sessionIdleTimeout sid => Sys2Proof.Machine.execSessionIdleTimeout sid s
  | .rdreg c off => Sys2Proof.Machine.execRdreg c off s
  | .wrreg c off v => Sys2Proof.Machine.execWrreg c off v s
  | .rdmem c addr len => Sys2Proof.Machine.execRdmem c addr len s
  | .leaseAcquire c dur => Sys2Proof.Machine.execLeaseAcquire c dur s
  | .leaseRenew c dur => Sys2Proof.Machine.execLeaseRenew c dur s
  | .leaseRelease c => Sys2Proof.Machine.execLeaseRelease c s
  | .leaseExpiry => Sys2Proof.Machine.execLeaseExpiry s
  | .seed c seed key base => Sys2Proof.Machine.execSeed c seed key base s
  | .launch c heat flags => Sys2Proof.Machine.execLaunch c heat flags s
  | .htail c off => Sys2Proof.Machine.execHtail c off s
  | .itail c v => Sys2Proof.Machine.execItail c v s
  | .sscredit c credit => Sys2Proof.Machine.execSscredit c credit s
  | .mode c bit value => Sys2Proof.Machine.execMode c bit value s
  | .resetWarm c => Sys2Proof.Machine.execResetWarm c s
  | .resetIdleBank c => Sys2Proof.Machine.execResetIdleBank c s
  | .resetStagedBoot c => Sys2Proof.Machine.execResetStagedBoot c s
  | .dataIn c addr data => Sys2Proof.Machine.execDataIn c addr data s
  | .bootDataIn c off data => Sys2Proof.Machine.execBootDataIn c off data s
  | .commandAtEffect => Sys2Proof.Machine.execCommandAtEffect s
  | .ptpMessage m domain => Sys2Proof.Machine.execPtpMessage m domain s
  | .heatLaunch => Sys2Proof.Machine.execHeatLaunch s
  | .heatComplete => Sys2Proof.Machine.execHeatComplete s
  | .heatOverdue => Sys2Proof.Machine.execHeatOverdue s
  | .handshakeStall b => Sys2Proof.Machine.execHandshakeStall b s
  | .secdedUncorrectable p => Sys2Proof.Machine.execSecdedUncorrectable p s
  | .hbmEccUncorrectable addr => Sys2Proof.Machine.execHbmEccUncorrectable addr s
  | .guestSwitch target => Sys2Proof.Machine.execGuestSwitch target s
  | .hostRemap v => Sys2Proof.Machine.execHostRemap v s
  | .sequencerMismatch c => Sys2Proof.Machine.execSequencerMismatch c s
  | .mpLockstepMismatch late => Sys2Proof.Machine.execMpLockstepMismatch late s
  | .hostLinkLoss relay => Sys2Proof.Machine.execHostLinkLoss relay s
  | .mouldDisable g => Sys2Proof.Machine.execMouldDisable g s
  | .mouldEnable g => Sys2Proof.Machine.execMouldEnable g s
  | .mouldLoad g v => Sys2Proof.Machine.execMouldLoad g v s
  | .stackDisable k => Sys2Proof.Machine.execStackDisable k s
  | .stackEnable k => Sys2Proof.Machine.execStackEnable k s
  | .stackTrainingComplete k ok => Sys2Proof.Machine.execStackTrainingComplete k ok s
  | .ingotActivate blk => Sys2Proof.Machine.execIngotActivate blk s
  | .ingotWrite v => Sys2Proof.Machine.execIngotWrite v s
  | .ingotWriteDone => Sys2Proof.Machine.execIngotWriteDone s
  | .keySeal slot => Sys2Proof.Machine.execKeySeal slot s
  | .keyRevoke slot => Sys2Proof.Machine.execKeyRevoke slot s
  | .svnCommit v => Sys2Proof.Machine.execSvnCommit v s
  | .optionBytesWrite v => Sys2Proof.Machine.execOptionBytesWrite v s
  | .registerWrite off v => Sys2Proof.Machine.execRegisterWrite off v s
  | .inputUndervoltage vin => Sys2Proof.Machine.execInputUndervoltage vin s
  | .inputReversed => Sys2Proof.Machine.execInputReversed s
  | .inputOvervoltage vin => Sys2Proof.Machine.execInputOvervoltage vin s
  | .inputReconnect vin => Sys2Proof.Machine.execInputReconnect vin s
  | .quenchArm vnode => Sys2Proof.Machine.execQuenchArm vnode s
  | .quench vnode => Sys2Proof.Machine.execQuench vnode s
  | .heldExit vnode => Sys2Proof.Machine.execHeldExit vnode s
  | .coldPowerUp ceff vin vnode => Sys2Proof.Machine.execColdPowerUp ceff vin vnode s
  | .rstNAssert ns => Sys2Proof.Machine.execRstNAssert ns s
  | .rstNRelease => Sys2Proof.Machine.execRstNRelease s
  | .watchdogTimeout => Sys2Proof.Machine.execWatchdogTimeout s
  | .moduleInsert => Sys2Proof.Machine.execModuleInsert s
  | .ejectNAssert => Sys2Proof.Machine.execEjectNAssert s
  | .ejectNRelease => Sys2Proof.Machine.execEjectNRelease s
  | .matedNRelease => Sys2Proof.Machine.execMatedNRelease s
  | .status => Sys2Proof.Machine.execStatus s
  | .temps => Sys2Proof.Machine.execTemps s
  | .capacity => Sys2Proof.Machine.execCapacity s
  | .boot => Sys2Proof.Machine.execBoot s
  | .alertCause => Sys2Proof.Machine.execAlertCause s
  | .alertResponse => Sys2Proof.Machine.execAlertResponse s
  | .identPtr v => Sys2Proof.Machine.execIdentPtr v s
  | .identRead => Sys2Proof.Machine.execIdentRead s
  | .systemCounterTick => Sys2Proof.Machine.execSystemCounterTick s
  | .hostLinkUp => Sys2Proof.Machine.execHostLinkUp s
  | .ptpGrandmasterLoss => Sys2Proof.Machine.execPtpGrandmasterLoss s
  | .thermalTripRelease temps => Sys2Proof.Machine.execThermalTripRelease temps s
  | .mouldLoadComplete g => Sys2Proof.Machine.execMouldLoadComplete g s
  | .ingotActivationComplete => Sys2Proof.Machine.execIngotActivationComplete s
  | .optionBytesProgrammed => Sys2Proof.Machine.execOptionBytesProgrammed s
  | .refclkDetect => Sys2Proof.Machine.execRefclkDetect s
  | .smbusWriteIgnored code v => Sys2Proof.Machine.execSmbusWriteIgnored code v s
  | .inputRangeAlert vin => Sys2Proof.Machine.execInputRangeAlert vin s

end Sys2Proof.Machine
end

