-- ==== Sys2Proof/Laws/Maps.lean ====
section
/-! SUPPORT. Sparse collections and byte stores: reading after writing, and the canonical form that every operation keeps. -/
namespace Sys2Proof.Machine

/-! ## Reading after writing -/

theorem SMap.get_ins {α : Type} (d : α) (m : SMap α) (k j : Nat) (v : α) :
    SMap.get d (SMap.ins m k v) j = if j = k then v else SMap.get d m j := by
  induction m with
  | nil => simp [SMap.ins, SMap.get]
  | cons p t ih =>
    obtain ⟨k', v'⟩ := p
    simp only [SMap.ins]
    split
    · simp [SMap.get]
    · split
      · rename_i h1 h2; subst h2; simp only [SMap.get]; split <;> rfl
      · simp only [SMap.get, ih]
        split
        · rename_i h; subst h; rw [if_neg (by omega)]
        · rfl

theorem SMap.get_filter {α : Type} (d : α) (m : SMap α) (k j : Nat) :
    SMap.get d (m.filter fun p => decide (p.1 ≠ k)) j = if j = k then d else SMap.get d m j := by
  induction m with
  | nil => simp [SMap.get]
  | cons p t ih =>
    obtain ⟨k', v'⟩ := p
    by_cases h : k' = k
    · subst h
      simp only [List.filter, ne_eq, not_true_eq_false, decide_false, ih, SMap.get]
      split <;> rfl
    · simp only [List.filter, ne_eq, h, not_false_eq_true, decide_true, SMap.get, ih]
      split
      · rename_i hj; subst hj; rw [if_neg h]
      · rfl

/-- A key reads what was written to it, and every other key what it read before. -/
theorem SMap.get_set {α : Type} [DecidableEq α] (d : α) (m : SMap α) (k j : Nat) (v : α) :
    SMap.get d (SMap.set d m k v) j = if j = k then v else SMap.get d m j := by
  unfold SMap.set
  split
  · rename_i h; subst h; exact SMap.get_filter v m k j
  · exact SMap.get_ins d m k j v

@[simp] theorem SMap.get_set_same {α : Type} [DecidableEq α] (d : α) (m : SMap α) (k : Nat) (v : α) :
    SMap.get d (SMap.set d m k v) k = v := by rw [SMap.get_set, if_pos rfl]

theorem SMap.get_set_other {α : Type} [DecidableEq α] (d : α) (m : SMap α) (k j : Nat) (v : α) (h : j ≠ k) :
    SMap.get d (SMap.set d m k v) j = SMap.get d m j := by rw [SMap.get_set, if_neg h]

theorem SMap.ins_ins {α : Type} (m : SMap α) (k : Nat) (v w : α) : SMap.ins (SMap.ins m k v) k w = SMap.ins m k w := by
  induction m with
  | nil => simp [SMap.ins]
  | cons p t ih =>
    obtain ⟨k', v'⟩ := p
    by_cases h1 : k < k'
    · simp [SMap.ins, h1]
    · by_cases h2 : k = k'
      · subst h2; simp [SMap.ins]
      · simp [SMap.ins, h1, h2, ih]

theorem SMap.filter_ins {α : Type} (m : SMap α) (k : Nat) (v : α) :
    (SMap.ins m k v).filter (fun p => decide (p.1 ≠ k)) = m.filter fun p => decide (p.1 ≠ k) := by
  induction m with
  | nil => simp [SMap.ins]
  | cons p t ih =>
    obtain ⟨k', v'⟩ := p
    by_cases h1 : k < k'
    · simp [SMap.ins, h1]
    · by_cases h2 : k = k'
      · subst h2; simp [SMap.ins]
      · have h3 : k' ≠ k := fun e => h2 e.symm
        simp only [SMap.ins, h1, h2, if_false, List.filter, ne_eq, h3, not_false_eq_true, decide_true]
        rw [ih]

/-- The second of two writes to a key stands, where the first left it listed. -/
theorem SMap.set_set {α : Type} [DecidableEq α] (d : α) (m : SMap α) (k : Nat) (v w : α) (h : v ≠ d) :
    SMap.set d (SMap.set d m k v) k w = SMap.set d m k w := by
  unfold SMap.set
  rw [if_neg h]
  split
  · exact SMap.filter_ins m k v
  · exact SMap.ins_ins m k v w

/-! ## Canonical form -/

/-- Every key of a collection is at least `k`. -/
def SMap.above {α : Type} (k : Nat) (m : SMap α) : Prop := ∀ p ∈ m, k < p.1

theorem SMap.rising_cons {α : Type} (p : Nat × α) (t : SMap α) :
    SMap.rising (p :: t) = true ↔ SMap.above p.1 t ∧ SMap.rising t = true := by
  induction t generalizing p with
  | nil => simp [SMap.rising, SMap.above]
  | cons q t ih =>
    obtain ⟨k, v⟩ := p; obtain ⟨k', v'⟩ := q
    simp only [SMap.rising, Bool.and_eq_true, decide_eq_true_eq, SMap.above, List.mem_cons, forall_eq_or_imp]
    constructor
    · rintro ⟨h1, h2⟩
      have h3 := (ih (k', v')).1 h2
      exact ⟨⟨h1, fun p hp => Nat.lt_trans h1 (h3.1 p hp)⟩, h2⟩
    · rintro ⟨⟨h1, _⟩, h2⟩
      exact ⟨h1, h2⟩

theorem SMap.mem_ins {α : Type} (m : SMap α) (k : Nat) (v : α) (p : Nat × α) (h : p ∈ SMap.ins m k v) :
    p = (k, v) ∨ p ∈ m := by
  induction m with
  | nil => simpa [SMap.ins] using h
  | cons q t ih =>
    obtain ⟨k', v'⟩ := q
    simp only [SMap.ins] at h
    split at h
    · simpa using h
    · split at h
      · rcases List.mem_cons.1 h with h | h
        · exact .inl h
        · exact .inr (List.mem_cons_of_mem _ h)
      · rcases List.mem_cons.1 h with h | h
        · exact .inr (h ▸ List.mem_cons_self)
        · exact (ih h).imp id (List.mem_cons_of_mem _)

theorem SMap.rising_ins {α : Type} (m : SMap α) (k : Nat) (v : α) (h : SMap.rising m = true) :
    SMap.rising (SMap.ins m k v) = true := by
  induction m with
  | nil => rfl
  | cons q t ih =>
    obtain ⟨k', v'⟩ := q
    have h' := (SMap.rising_cons _ _).1 h
    simp only [SMap.ins]
    split
    · rename_i hk
      refine (SMap.rising_cons _ _).2 ⟨fun p hp => ?_, h⟩
      rcases List.mem_cons.1 hp with e | e
      · exact e ▸ hk
      · exact Nat.lt_trans hk (h'.1 p e)
    · split
      · rename_i hk; subst hk; exact (SMap.rising_cons _ _).2 h'
      · refine (SMap.rising_cons _ _).2 ⟨fun p hp => ?_, ih h'.2⟩
        rcases SMap.mem_ins t k v p hp with e | e
        · subst e; show k' < k; omega
        · exact h'.1 p e

theorem SMap.rising_filter {α : Type} (m : SMap α) (f : Nat × α → Bool) (h : SMap.rising m = true) :
    SMap.rising (m.filter f) = true := by
  induction m with
  | nil => rfl
  | cons q t ih =>
    have h' := (SMap.rising_cons _ _).1 h
    simp only [List.filter]
    split
    · exact (SMap.rising_cons _ _).2 ⟨fun p hp => h'.1 p (List.mem_filter.1 hp).1, ih h'.2⟩
    · exact ih h'.2

/-- Setting a key keeps the canonical form. -/
theorem SMap.wf_set {α : Type} [DecidableEq α] (d : Nat → α) (m : SMap α) (k : Nat) (v : α) (h : SMap.wf d m = true) :
    SMap.wf d (SMap.set (d k) m k v) = true := by
  simp only [SMap.wf, Bool.and_eq_true, List.all_eq_true, decide_eq_true_eq] at h ⊢
  unfold SMap.set
  split
  · exact ⟨SMap.rising_filter _ _ h.1, fun p hp => h.2 p (List.mem_filter.1 hp).1⟩
  · rename_i hv
    refine ⟨SMap.rising_ins _ _ _ h.1, fun p hp => ?_⟩
    rcases SMap.mem_ins m k v p hp with e | e
    · subst e; exact hv
    · exact h.2 p e

/-! ## Byte stores -/

theorem Mem.put_undef (m : Mem) (a : Nat) (b : Byte) : (m.put a b).undef = m.undef := rfl

theorem Mem.put_epochOf (m : Mem) (a : Nat) (b : Byte) (j : Nat) : (m.put a b).epochOf j = m.epochOf j := rfl

theorem Mem.put_fill (m : Mem) (a : Nat) (b : Byte) (j : Nat) : (m.put a b).fill j = m.fill j := rfl

/-- The listed byte of an address, or else what an unlisted one reads as. -/
theorem Mem.get_eq (m : Mem) (a : Nat) : m.get a = SMap.get (m.fill a) m.cells a := by
  unfold Mem.get
  generalize m.fill a = d
  induction m.cells with
  | nil => rfl
  | cons c t ih =>
    obtain ⟨k, v⟩ := c
    simp only [List.find?, SMap.get]
    by_cases h : k = a
    · subst h; simp
    · have h1 : (k == a) = false := by simpa using h
      have h2 : ¬ a = k := fun e => h e.symm
      simpa [h1, h2] using ih

/-- An address reads what was stored there, and every other address what it read before. -/
theorem Mem.get_put (m : Mem) (a j : Nat) (b : Byte) : (m.put a b).get j = if j = a then b else m.get j := by
  rw [Mem.get_eq, Mem.put_fill, Mem.get_eq]
  unfold Mem.put
  split
  · rename_i h
    show SMap.get _ (m.cells.filter fun c => decide (c.1 ≠ a)) j = _
    rw [SMap.get_filter]
    split
    · rename_i e; subst e; simp [Mem.fill, h.2, h.1]
    · rfl
  · exact SMap.get_ins _ _ _ _ _

@[simp] theorem Mem.get_put_same (m : Mem) (a : Nat) (b : Byte) : (m.put a b).get a = b := by rw [Mem.get_put, if_pos rfl]

theorem Mem.get_put_other (m : Mem) (a j : Nat) (b : Byte) (h : j ≠ a) : (m.put a b).get j = m.get j := by
  rw [Mem.get_put, if_neg h]

/-- Outside the stored bytes a store leaves every address as it was. -/
theorem Mem.get_puts_other (m : Mem) (a j : Nat) (bs : List Byte) (h : j < a ∨ a + bs.length ≤ j) :
    (m.puts a bs).get j = m.get j := by
  induction bs generalizing m a with
  | nil => rfl
  | cons b bs ih =>
    simp only [List.length_cons] at h
    rw [Mem.puts, ih _ _ (by omega), Mem.get_put_other _ _ _ _ (by omega)]

/-- Inside the stored bytes an address reads its byte. -/
theorem Mem.get_puts (m : Mem) (a i : Nat) (bs : List Byte) (h : i < bs.length) :
    (m.puts a bs).get (a + i) = bs[i] := by
  induction bs generalizing m a i with
  | nil => exact absurd h (Nat.not_lt_zero _)
  | cons b bs ih =>
    cases i with
    | zero => rw [Mem.puts, Mem.get_puts_other _ _ _ _ (by omega)]; simp
    | succ i =>
      have e : a + (i + 1) = a + 1 + i := by omega
      rw [Mem.puts, e, ih _ _ _ (by simpa using h)]
      rfl

theorem Mem.wf_iff (m : Mem) :
    m.wf = true ↔ SMap.rising m.cells = true ∧ ∀ c ∈ m.cells, c.2 ≠ 0 ∨ (m.epochOf c.1).isSome = true := by
  simp [Mem.wf]

/-- Storing a byte keeps the canonical form. -/
theorem Mem.wf_put (m : Mem) (a : Nat) (b : Byte) (h : m.wf = true) : (m.put a b).wf = true := by
  have h' := (Mem.wf_iff m).1 h
  refine (Mem.wf_iff _).2 ?_
  show SMap.rising (m.put a b).cells = true ∧ ∀ c ∈ (m.put a b).cells, c.2 ≠ 0 ∨ (m.epochOf c.1).isSome = true
  unfold Mem.put
  split
  · exact ⟨SMap.rising_filter _ _ h'.1, fun c hc => h'.2 c (List.mem_filter.1 hc).1⟩
  · rename_i hb
    refine ⟨SMap.rising_ins _ _ _ h'.1, fun c hc => ?_⟩
    rcases SMap.mem_ins _ _ _ _ hc with e | e
    · subst e
      by_cases h0 : b = 0
      · right
        cases he : m.epochOf a with
        | none => exact absurd ⟨h0, he⟩ hb
        | some e => simp
      · exact .inl h0
    · exact h'.2 c e

/-- Storing bytes keeps the canonical form. -/
theorem Mem.wf_puts (m : Mem) (a : Nat) (bs : List Byte) (h : m.wf = true) : (m.puts a bs).wf = true := by
  induction bs generalizing m a with
  | nil => exact h
  | cons b bs ih => exact ih _ _ (Mem.wf_put m a b h)

/-- Losing a range keeps the canonical form. -/
theorem Mem.wf_lose (m : Mem) (a b e : Nat) (h : m.wf = true) : (m.lose a b e).wf = true := by
  have h' := (Mem.wf_iff m).1 h
  refine (Mem.wf_iff _).2 ⟨SMap.rising_filter _ _ h'.1, fun c hc => ?_⟩
  have hm := List.mem_filter.1 hc
  have hn : ¬(a ≤ c.1 ∧ c.1 < b) := of_decide_eq_true hm.2
  rcases h'.2 c hm.1 with g | g
  · exact .inl g
  · refine .inr ?_
    have : decide (a ≤ c.1 ∧ c.1 < b) = false := decide_eq_false hn
    simp only [Mem.epochOf, Mem.lose, List.find?, this] at g ⊢
    exact g

/-- Erasing cells by a test on their addresses keeps the canonical form. -/
theorem Mem.wf_filter (m : Mem) (f : Host.Cell → Bool) (h : m.wf = true) : Mem.wf { m with cells := m.cells.filter f } = true := by
  have h' := (Mem.wf_iff m).1 h
  exact (Mem.wf_iff _).2 ⟨SMap.rising_filter _ _ h'.1, fun c hc => h'.2 c (List.mem_filter.1 hc).1⟩

/-- Storing single bytes at any addresses keeps the canonical form. -/
theorem Mem.wf_foldl_put {α : Type} (f : α → Nat × Byte) (l : List α) (m : Mem) (h : m.wf = true) :
    (l.foldl (fun m c => m.put (f c).1 (f c).2) m).wf = true := by
  induction l generalizing m with
  | nil => exact h
  | cons c l ih => exact ih _ (Mem.wf_put _ _ _ h)

/-- Moving a region's bytes to their places keeps the canonical form. -/
theorem Mem.wf_toPlaces (m : Mem) (b l : Nat) (pl : W64) (h : m.wf = true) : (m.toPlaces b l pl).wf = true := by
  unfold Mem.toPlaces
  generalize hk : (fun c : Host.Cell => placeKey (hbmPlace b pl c.1)) = k
  have e : ∀ c : Host.Cell, placeKey (hbmPlace b pl c.1) = k c := fun c => congrFun hk c
  simp only [e]
  exact Mem.wf_foldl_put (fun c => (k c, c.2)) _ _ (Mem.wf_filter _ _ h)

/-- Taking a region's bytes from their places keeps the canonical form. -/
theorem Mem.wf_fromPlaces (m : Mem) (b l : Nat) (pl : W64) (e : Nat) (h : m.wf = true) : (m.fromPlaces b l pl e).wf = true := by
  unfold Mem.fromPlaces
  exact Mem.wf_foldl_put (fun c => c) _ _ (Mem.wf_lose _ _ _ _ (Mem.wf_filter _ _ h))

theorem Mem.wf_empty : Mem.empty.wf = true := rfl

/-- The memories at reset are canonical. -/
theorem reset_mem_wf : State.reset.mem.wf = true ∧ Mould.reset.dmem.wf = true ∧ Mould.reset.ocache.wf = true := ⟨rfl, rfl, rfl⟩

end Sys2Proof.Machine
end

