-- ==== Sys2Proof/Laws/State.lean ====
section
/-! SUPPORT. Reading one field after one update of the state or of a mould: no later proof unfolds a record update. -/
namespace Sys2Proof.Machine

/-! ## The state -/

@[simp] theorem State.setMould_pending (s : State) (g : Nat) (m : Mould) : (s.setMould g m).pending = s.pending := rfl
@[simp] theorem State.setMould_cnt (s : State) (g : Nat) (m : Mould) : (s.setMould g m).cnt = s.cnt := rfl
@[simp] theorem State.setMould_phase (s : State) (g : Nat) (m : Mould) : (s.setMould g m).phase = s.phase := rfl
@[simp] theorem State.setMould_regs (s : State) (g : Nat) (m : Mould) : (s.setMould g m).regs = s.regs := rfl
@[simp] theorem State.setMould_mem (s : State) (g : Nat) (m : Mould) : (s.setMould g m).mem = s.mem := rfl
@[simp] theorem State.setMould_draining (s : State) (g : Nat) (m : Mould) : (s.setMould g m).draining = s.draining := rfl
@[simp] theorem State.setMould_barriers (s : State) (g : Nat) (m : Mould) : (s.setMould g m).barriers = s.barriers := rfl
@[simp] theorem State.setMould_seqMismatch (s : State) (g : Nat) (m : Mould) : (s.setMould g m).seqMismatch = s.seqMismatch := rfl
@[simp] theorem State.setMould_risers (s : State) (g : Nat) (m : Mould) : (s.setMould g m).risers = s.risers := rfl
@[simp] theorem State.setMould_runner (s : State) (g : Nat) (m : Mould) : (s.setMould g m).runner = s.runner := rfl
@[simp] theorem State.setMould_host (s : State) (g : Nat) (m : Mould) : (s.setMould g m).host = s.host := rfl
@[simp] theorem State.setMould_heats (s : State) (g : Nat) (m : Mould) : (s.setMould g m).heats = s.heats := rfl
@[simp] theorem State.setMould_pwr (s : State) (g : Nat) (m : Mould) : (s.setMould g m).pwr = s.pwr := rfl
@[simp] theorem State.setMould_free (s : State) (g : Nat) (m : Mould) : (s.setMould g m).free = s.free := rfl
@[simp] theorem State.setMould_epoch (s : State) (g : Nat) (m : Mould) : (s.setMould g m).epoch = s.epoch := rfl

@[simp] theorem State.updMould_pending (s : State) (g : Nat) (f : Mould → Mould) : (s.updMould g f).pending = s.pending := rfl
@[simp] theorem State.updMould_cnt (s : State) (g : Nat) (f : Mould → Mould) : (s.updMould g f).cnt = s.cnt := rfl
@[simp] theorem State.updMould_phase (s : State) (g : Nat) (f : Mould → Mould) : (s.updMould g f).phase = s.phase := rfl
@[simp] theorem State.updMould_regs (s : State) (g : Nat) (f : Mould → Mould) : (s.updMould g f).regs = s.regs := rfl
@[simp] theorem State.updMould_mem (s : State) (g : Nat) (f : Mould → Mould) : (s.updMould g f).mem = s.mem := rfl
@[simp] theorem State.updMould_draining (s : State) (g : Nat) (f : Mould → Mould) : (s.updMould g f).draining = s.draining := rfl
@[simp] theorem State.updMould_barriers (s : State) (g : Nat) (f : Mould → Mould) : (s.updMould g f).barriers = s.barriers := rfl
@[simp] theorem State.updMould_seqMismatch (s : State) (g : Nat) (f : Mould → Mould) : (s.updMould g f).seqMismatch = s.seqMismatch := rfl
@[simp] theorem State.updMould_risers (s : State) (g : Nat) (f : Mould → Mould) : (s.updMould g f).risers = s.risers := rfl
@[simp] theorem State.updMould_runner (s : State) (g : Nat) (f : Mould → Mould) : (s.updMould g f).runner = s.runner := rfl
@[simp] theorem State.updMould_host (s : State) (g : Nat) (f : Mould → Mould) : (s.updMould g f).host = s.host := rfl
@[simp] theorem State.updMould_heats (s : State) (g : Nat) (f : Mould → Mould) : (s.updMould g f).heats = s.heats := rfl
@[simp] theorem State.updMould_pwr (s : State) (g : Nat) (f : Mould → Mould) : (s.updMould g f).pwr = s.pwr := rfl
@[simp] theorem State.updMould_free (s : State) (g : Nat) (f : Mould → Mould) : (s.updMould g f).free = s.free := rfl
@[simp] theorem State.updMould_epoch (s : State) (g : Nat) (f : Mould → Mould) : (s.updMould g f).epoch = s.epoch := rfl

@[simp] theorem State.mcount_pending (s : State) (g o n : Nat) : (s.mcount g o n).pending = s.pending := by unfold State.mcount; split <;> rfl
@[simp] theorem State.mcount_cnt (s : State) (g o n : Nat) : (s.mcount g o n).cnt = s.cnt := by unfold State.mcount; split <;> rfl
@[simp] theorem State.mcount_phase (s : State) (g o n : Nat) : (s.mcount g o n).phase = s.phase := by unfold State.mcount; split <;> rfl
@[simp] theorem State.mcount_regs (s : State) (g o n : Nat) : (s.mcount g o n).regs = s.regs := by unfold State.mcount; split <;> rfl
@[simp] theorem State.mcount_mem (s : State) (g o n : Nat) : (s.mcount g o n).mem = s.mem := by unfold State.mcount; split <;> rfl
@[simp] theorem State.mcount_draining (s : State) (g o n : Nat) : (s.mcount g o n).draining = s.draining := by unfold State.mcount; split <;> rfl
@[simp] theorem State.mcount_barriers (s : State) (g o n : Nat) : (s.mcount g o n).barriers = s.barriers := by unfold State.mcount; split <;> rfl
@[simp] theorem State.mcount_seqMismatch (s : State) (g o n : Nat) : (s.mcount g o n).seqMismatch = s.seqMismatch := by unfold State.mcount; split <;> rfl
@[simp] theorem State.mcount_risers (s : State) (g o n : Nat) : (s.mcount g o n).risers = s.risers := by unfold State.mcount; split <;> rfl
@[simp] theorem State.mcount_runner (s : State) (g o n : Nat) : (s.mcount g o n).runner = s.runner := by unfold State.mcount; split <;> rfl
@[simp] theorem State.mcount_host (s : State) (g o n : Nat) : (s.mcount g o n).host = s.host := by unfold State.mcount; split <;> rfl
@[simp] theorem State.mcount_heats (s : State) (g o n : Nat) : (s.mcount g o n).heats = s.heats := by unfold State.mcount; split <;> rfl
@[simp] theorem State.mcount_pwr (s : State) (g o n : Nat) : (s.mcount g o n).pwr = s.pwr := by unfold State.mcount; split <;> rfl
@[simp] theorem State.mcount_free (s : State) (g o n : Nat) : (s.mcount g o n).free = s.free := by unfold State.mcount; split <;> rfl
@[simp] theorem State.mcount_epoch (s : State) (g o n : Nat) : (s.mcount g o n).epoch = s.epoch := by unfold State.mcount; split <;> rfl

@[simp] theorem State.setReg_pending (s : State) (o : Nat) (v : W64) : (s.setReg o v).pending = s.pending := rfl
@[simp] theorem State.setReg_cnt (s : State) (o : Nat) (v : W64) : (s.setReg o v).cnt = s.cnt := rfl
@[simp] theorem State.setReg_phase (s : State) (o : Nat) (v : W64) : (s.setReg o v).phase = s.phase := rfl
@[simp] theorem State.setReg_mem (s : State) (o : Nat) (v : W64) : (s.setReg o v).mem = s.mem := rfl
@[simp] theorem State.setReg_draining (s : State) (o : Nat) (v : W64) : (s.setReg o v).draining = s.draining := rfl
@[simp] theorem State.setReg_moulds (s : State) (o : Nat) (v : W64) : (s.setReg o v).moulds = s.moulds := rfl
@[simp] theorem State.setReg_barriers (s : State) (o : Nat) (v : W64) : (s.setReg o v).barriers = s.barriers := rfl
@[simp] theorem State.setReg_seqMismatch (s : State) (o : Nat) (v : W64) : (s.setReg o v).seqMismatch = s.seqMismatch := rfl
@[simp] theorem State.setReg_risers (s : State) (o : Nat) (v : W64) : (s.setReg o v).risers = s.risers := rfl
@[simp] theorem State.setReg_runner (s : State) (o : Nat) (v : W64) : (s.setReg o v).runner = s.runner := rfl
@[simp] theorem State.setReg_host (s : State) (o : Nat) (v : W64) : (s.setReg o v).host = s.host := rfl
@[simp] theorem State.setReg_heats (s : State) (o : Nat) (v : W64) : (s.setReg o v).heats = s.heats := rfl
@[simp] theorem State.setReg_pwr (s : State) (o : Nat) (v : W64) : (s.setReg o v).pwr = s.pwr := rfl
@[simp] theorem State.setReg_free (s : State) (o : Nat) (v : W64) : (s.setReg o v).free = s.free := rfl
@[simp] theorem State.setReg_epoch (s : State) (o : Nat) (v : W64) : (s.setReg o v).epoch = s.epoch := rfl

@[simp] theorem State.setField_pending (s : State) (o hi lo v : Nat) : (s.setField o hi lo v).pending = s.pending := rfl
@[simp] theorem State.setField_cnt (s : State) (o hi lo v : Nat) : (s.setField o hi lo v).cnt = s.cnt := rfl
@[simp] theorem State.setField_phase (s : State) (o hi lo v : Nat) : (s.setField o hi lo v).phase = s.phase := rfl
@[simp] theorem State.setField_mem (s : State) (o hi lo v : Nat) : (s.setField o hi lo v).mem = s.mem := rfl
@[simp] theorem State.setField_draining (s : State) (o hi lo v : Nat) : (s.setField o hi lo v).draining = s.draining := rfl
@[simp] theorem State.setField_moulds (s : State) (o hi lo v : Nat) : (s.setField o hi lo v).moulds = s.moulds := rfl
@[simp] theorem State.setField_barriers (s : State) (o hi lo v : Nat) : (s.setField o hi lo v).barriers = s.barriers := rfl
@[simp] theorem State.setField_seqMismatch (s : State) (o hi lo v : Nat) : (s.setField o hi lo v).seqMismatch = s.seqMismatch := rfl
@[simp] theorem State.setField_risers (s : State) (o hi lo v : Nat) : (s.setField o hi lo v).risers = s.risers := rfl
@[simp] theorem State.setField_runner (s : State) (o hi lo v : Nat) : (s.setField o hi lo v).runner = s.runner := rfl
@[simp] theorem State.setField_host (s : State) (o hi lo v : Nat) : (s.setField o hi lo v).host = s.host := rfl
@[simp] theorem State.setField_heats (s : State) (o hi lo v : Nat) : (s.setField o hi lo v).heats = s.heats := rfl
@[simp] theorem State.setField_pwr (s : State) (o hi lo v : Nat) : (s.setField o hi lo v).pwr = s.pwr := rfl
@[simp] theorem State.setField_free (s : State) (o hi lo v : Nat) : (s.setField o hi lo v).free = s.free := rfl
@[simp] theorem State.setField_epoch (s : State) (o hi lo v : Nat) : (s.setField o hi lo v).epoch = s.epoch := rfl

@[simp] theorem State.count_pending (s : State) (o n : Nat) : (s.count o n).pending = s.pending := by unfold State.count; split <;> rfl
@[simp] theorem State.count_cnt (s : State) (o n : Nat) : (s.count o n).cnt = s.cnt := by unfold State.count; split <;> rfl
@[simp] theorem State.count_phase (s : State) (o n : Nat) : (s.count o n).phase = s.phase := by unfold State.count; split <;> rfl
@[simp] theorem State.count_mem (s : State) (o n : Nat) : (s.count o n).mem = s.mem := by unfold State.count; split <;> rfl
@[simp] theorem State.count_draining (s : State) (o n : Nat) : (s.count o n).draining = s.draining := by unfold State.count; split <;> rfl
@[simp] theorem State.count_moulds (s : State) (o n : Nat) : (s.count o n).moulds = s.moulds := by unfold State.count; split <;> rfl
@[simp] theorem State.count_barriers (s : State) (o n : Nat) : (s.count o n).barriers = s.barriers := by unfold State.count; split <;> rfl
@[simp] theorem State.count_seqMismatch (s : State) (o n : Nat) : (s.count o n).seqMismatch = s.seqMismatch := by unfold State.count; split <;> rfl
@[simp] theorem State.count_risers (s : State) (o n : Nat) : (s.count o n).risers = s.risers := by unfold State.count; split <;> rfl
@[simp] theorem State.count_runner (s : State) (o n : Nat) : (s.count o n).runner = s.runner := by unfold State.count; split <;> rfl
@[simp] theorem State.count_host (s : State) (o n : Nat) : (s.count o n).host = s.host := by unfold State.count; split <;> rfl
@[simp] theorem State.count_heats (s : State) (o n : Nat) : (s.count o n).heats = s.heats := by unfold State.count; split <;> rfl
@[simp] theorem State.count_pwr (s : State) (o n : Nat) : (s.count o n).pwr = s.pwr := by unfold State.count; split <;> rfl
@[simp] theorem State.count_free (s : State) (o n : Nat) : (s.count o n).free = s.free := by unfold State.count; split <;> rfl
@[simp] theorem State.count_epoch (s : State) (o n : Nat) : (s.count o n).epoch = s.epoch := by unfold State.count; split <;> rfl

@[simp] theorem State.setRiser_pending (s : State) (r : Nat) (v : Riser) : (s.setRiser r v).pending = s.pending := rfl
@[simp] theorem State.setRiser_cnt (s : State) (r : Nat) (v : Riser) : (s.setRiser r v).cnt = s.cnt := rfl
@[simp] theorem State.setRiser_phase (s : State) (r : Nat) (v : Riser) : (s.setRiser r v).phase = s.phase := rfl
@[simp] theorem State.setRiser_regs (s : State) (r : Nat) (v : Riser) : (s.setRiser r v).regs = s.regs := rfl
@[simp] theorem State.setRiser_mem (s : State) (r : Nat) (v : Riser) : (s.setRiser r v).mem = s.mem := rfl
@[simp] theorem State.setRiser_draining (s : State) (r : Nat) (v : Riser) : (s.setRiser r v).draining = s.draining := rfl
@[simp] theorem State.setRiser_moulds (s : State) (r : Nat) (v : Riser) : (s.setRiser r v).moulds = s.moulds := rfl
@[simp] theorem State.setRiser_barriers (s : State) (r : Nat) (v : Riser) : (s.setRiser r v).barriers = s.barriers := rfl
@[simp] theorem State.setRiser_seqMismatch (s : State) (r : Nat) (v : Riser) : (s.setRiser r v).seqMismatch = s.seqMismatch := rfl
@[simp] theorem State.setRiser_runner (s : State) (r : Nat) (v : Riser) : (s.setRiser r v).runner = s.runner := rfl
@[simp] theorem State.setRiser_host (s : State) (r : Nat) (v : Riser) : (s.setRiser r v).host = s.host := rfl
@[simp] theorem State.setRiser_heats (s : State) (r : Nat) (v : Riser) : (s.setRiser r v).heats = s.heats := rfl
@[simp] theorem State.setRiser_pwr (s : State) (r : Nat) (v : Riser) : (s.setRiser r v).pwr = s.pwr := rfl
@[simp] theorem State.setRiser_free (s : State) (r : Nat) (v : Riser) : (s.setRiser r v).free = s.free := rfl
@[simp] theorem State.setRiser_epoch (s : State) (r : Nat) (v : Riser) : (s.setRiser r v).epoch = s.epoch := rfl

@[simp] theorem State.setPort_pending (s : State) (p : Nat) (v : Port) : (s.setPort p v).pending = s.pending := rfl
@[simp] theorem State.setPort_cnt (s : State) (p : Nat) (v : Port) : (s.setPort p v).cnt = s.cnt := rfl
@[simp] theorem State.setPort_phase (s : State) (p : Nat) (v : Port) : (s.setPort p v).phase = s.phase := rfl
@[simp] theorem State.setPort_regs (s : State) (p : Nat) (v : Port) : (s.setPort p v).regs = s.regs := rfl
@[simp] theorem State.setPort_mem (s : State) (p : Nat) (v : Port) : (s.setPort p v).mem = s.mem := rfl
@[simp] theorem State.setPort_draining (s : State) (p : Nat) (v : Port) : (s.setPort p v).draining = s.draining := rfl
@[simp] theorem State.setPort_moulds (s : State) (p : Nat) (v : Port) : (s.setPort p v).moulds = s.moulds := rfl
@[simp] theorem State.setPort_barriers (s : State) (p : Nat) (v : Port) : (s.setPort p v).barriers = s.barriers := rfl
@[simp] theorem State.setPort_seqMismatch (s : State) (p : Nat) (v : Port) : (s.setPort p v).seqMismatch = s.seqMismatch := rfl
@[simp] theorem State.setPort_risers (s : State) (p : Nat) (v : Port) : (s.setPort p v).risers = s.risers := rfl
@[simp] theorem State.setPort_host (s : State) (p : Nat) (v : Port) : (s.setPort p v).host = s.host := rfl
@[simp] theorem State.setPort_heats (s : State) (p : Nat) (v : Port) : (s.setPort p v).heats = s.heats := rfl
@[simp] theorem State.setPort_pwr (s : State) (p : Nat) (v : Port) : (s.setPort p v).pwr = s.pwr := rfl
@[simp] theorem State.setPort_free (s : State) (p : Nat) (v : Port) : (s.setPort p v).free = s.free := rfl
@[simp] theorem State.setPort_epoch (s : State) (p : Nat) (v : Port) : (s.setPort p v).epoch = s.epoch := rfl

@[simp] theorem State.setSessions_pending (s : State) (l : List Session) : (s.setSessions l).pending = s.pending := rfl
@[simp] theorem State.setSessions_cnt (s : State) (l : List Session) : (s.setSessions l).cnt = s.cnt := rfl
@[simp] theorem State.setSessions_phase (s : State) (l : List Session) : (s.setSessions l).phase = s.phase := rfl
@[simp] theorem State.setSessions_regs (s : State) (l : List Session) : (s.setSessions l).regs = s.regs := rfl
@[simp] theorem State.setSessions_mem (s : State) (l : List Session) : (s.setSessions l).mem = s.mem := rfl
@[simp] theorem State.setSessions_draining (s : State) (l : List Session) : (s.setSessions l).draining = s.draining := rfl
@[simp] theorem State.setSessions_moulds (s : State) (l : List Session) : (s.setSessions l).moulds = s.moulds := rfl
@[simp] theorem State.setSessions_barriers (s : State) (l : List Session) : (s.setSessions l).barriers = s.barriers := rfl
@[simp] theorem State.setSessions_seqMismatch (s : State) (l : List Session) : (s.setSessions l).seqMismatch = s.seqMismatch := rfl
@[simp] theorem State.setSessions_risers (s : State) (l : List Session) : (s.setSessions l).risers = s.risers := rfl
@[simp] theorem State.setSessions_runner (s : State) (l : List Session) : (s.setSessions l).runner = s.runner := rfl
@[simp] theorem State.setSessions_heats (s : State) (l : List Session) : (s.setSessions l).heats = s.heats := rfl
@[simp] theorem State.setSessions_pwr (s : State) (l : List Session) : (s.setSessions l).pwr = s.pwr := rfl
@[simp] theorem State.setSessions_free (s : State) (l : List Session) : (s.setSessions l).free = s.free := rfl
@[simp] theorem State.setSessions_epoch (s : State) (l : List Session) : (s.setSessions l).epoch = s.epoch := rfl

@[simp] theorem State.send_pending (s : State) (m : FabMsg) : (s.send m).pending = s.pending := rfl
@[simp] theorem State.send_cnt (s : State) (m : FabMsg) : (s.send m).cnt = s.cnt := rfl
@[simp] theorem State.send_phase (s : State) (m : FabMsg) : (s.send m).phase = s.phase := rfl
@[simp] theorem State.send_regs (s : State) (m : FabMsg) : (s.send m).regs = s.regs := rfl
@[simp] theorem State.send_mem (s : State) (m : FabMsg) : (s.send m).mem = s.mem := rfl
@[simp] theorem State.send_draining (s : State) (m : FabMsg) : (s.send m).draining = s.draining := rfl
@[simp] theorem State.send_moulds (s : State) (m : FabMsg) : (s.send m).moulds = s.moulds := rfl
@[simp] theorem State.send_barriers (s : State) (m : FabMsg) : (s.send m).barriers = s.barriers := rfl
@[simp] theorem State.send_seqMismatch (s : State) (m : FabMsg) : (s.send m).seqMismatch = s.seqMismatch := rfl
@[simp] theorem State.send_risers (s : State) (m : FabMsg) : (s.send m).risers = s.risers := rfl
@[simp] theorem State.send_host (s : State) (m : FabMsg) : (s.send m).host = s.host := rfl
@[simp] theorem State.send_heats (s : State) (m : FabMsg) : (s.send m).heats = s.heats := rfl
@[simp] theorem State.send_pwr (s : State) (m : FabMsg) : (s.send m).pwr = s.pwr := rfl
@[simp] theorem State.send_free (s : State) (m : FabMsg) : (s.send m).free = s.free := rfl
@[simp] theorem State.send_epoch (s : State) (m : FabMsg) : (s.send m).epoch = s.epoch := rfl

@[simp] theorem State.toHost_pending (s : State) (m : HostOut) : (s.toHost m).pending = s.pending := rfl
@[simp] theorem State.toHost_cnt (s : State) (m : HostOut) : (s.toHost m).cnt = s.cnt := rfl
@[simp] theorem State.toHost_phase (s : State) (m : HostOut) : (s.toHost m).phase = s.phase := rfl
@[simp] theorem State.toHost_regs (s : State) (m : HostOut) : (s.toHost m).regs = s.regs := rfl
@[simp] theorem State.toHost_mem (s : State) (m : HostOut) : (s.toHost m).mem = s.mem := rfl
@[simp] theorem State.toHost_draining (s : State) (m : HostOut) : (s.toHost m).draining = s.draining := rfl
@[simp] theorem State.toHost_moulds (s : State) (m : HostOut) : (s.toHost m).moulds = s.moulds := rfl
@[simp] theorem State.toHost_barriers (s : State) (m : HostOut) : (s.toHost m).barriers = s.barriers := rfl
@[simp] theorem State.toHost_seqMismatch (s : State) (m : HostOut) : (s.toHost m).seqMismatch = s.seqMismatch := rfl
@[simp] theorem State.toHost_risers (s : State) (m : HostOut) : (s.toHost m).risers = s.risers := rfl
@[simp] theorem State.toHost_runner (s : State) (m : HostOut) : (s.toHost m).runner = s.runner := rfl
@[simp] theorem State.toHost_heats (s : State) (m : HostOut) : (s.toHost m).heats = s.heats := rfl
@[simp] theorem State.toHost_pwr (s : State) (m : HostOut) : (s.toHost m).pwr = s.pwr := rfl
@[simp] theorem State.toHost_free (s : State) (m : HostOut) : (s.toHost m).free = s.free := rfl
@[simp] theorem State.toHost_epoch (s : State) (m : HostOut) : (s.toHost m).epoch = s.epoch := rfl

/-- Reading a mould after writing one. -/
theorem State.mould_setMould (s : State) (g j : Nat) (m : Mould) :
    (s.setMould g m).mould j = if j = g then m else s.mould j := SMap.get_set _ _ _ _ _

@[simp] theorem State.mould_setMould_same (s : State) (g : Nat) (m : Mould) : (s.setMould g m).mould g = m := by
  rw [State.mould_setMould, if_pos rfl]

theorem State.mould_setMould_other (s : State) (g j : Nat) (m : Mould) (h : j ≠ g) :
    (s.setMould g m).mould j = s.mould j := by rw [State.mould_setMould, if_neg h]

/-- The second of two writes of a mould stands, where the first is not a mould just reset. -/
theorem State.setMould_setMould (s : State) (g : Nat) (a b : Mould) (h : a ≠ Mould.reset) :
    (s.setMould g a).setMould g b = s.setMould g b := by
  unfold State.setMould
  simp only [SMap.set_set _ _ _ _ _ h]

theorem State.updMould_setMould (s : State) (g : Nat) (a : Mould) (f : Mould → Mould) (h : a ≠ Mould.reset) :
    (s.setMould g a).updMould g f = s.setMould g (f a) := by
  unfold State.updMould
  rw [State.mould_setMould_same, State.setMould_setMould _ _ _ _ h]

@[simp] theorem State.mould_updMould_same (s : State) (g : Nat) (f : Mould → Mould) :
    (s.updMould g f).mould g = f (s.mould g) := by simp [State.updMould]

theorem State.mould_updMould_other (s : State) (g j : Nat) (f : Mould → Mould) (h : j ≠ g) :
    (s.updMould g f).mould j = s.mould j := State.mould_setMould_other _ _ _ _ h

@[simp] theorem State.mould_setReg (s : State) (o g : Nat) (v : W64) : (s.setReg o v).mould g = s.mould g := rfl
@[simp] theorem State.mould_setField (s : State) (o hi lo v g : Nat) : (s.setField o hi lo v).mould g = s.mould g := rfl
@[simp] theorem State.mould_count (s : State) (o n g : Nat) : (s.count o n).mould g = s.mould g := by
  unfold State.count; split <;> rfl

/-- Reading a device register after writing one. -/
theorem State.reg_setReg (s : State) (o j : Nat) (v : W64) : (s.setReg o v).reg j = if j = o then v else s.reg j := by
  unfold State.setReg State.reg
  by_cases h : j = o
  · subst h; simp
  · rw [if_neg h]
    show SMap.get (devReset j) (SMap.set (devReset o) s.regs o v) j = _
    unfold SMap.set
    split
    · rw [SMap.get_filter, if_neg h]
    · rw [SMap.get_ins, if_neg h]

@[simp] theorem State.reg_setReg_same (s : State) (o : Nat) (v : W64) : (s.setReg o v).reg o = v := by
  rw [State.reg_setReg, if_pos rfl]

theorem State.reg_setReg_other (s : State) (o j : Nat) (v : W64) (h : j ≠ o) : (s.setReg o v).reg j = s.reg j := by
  rw [State.reg_setReg, if_neg h]

@[simp] theorem State.reg_setMould (s : State) (g j : Nat) (m : Mould) : (s.setMould g m).reg j = s.reg j := rfl
@[simp] theorem State.reg_updMould (s : State) (g j : Nat) (f : Mould → Mould) : (s.updMould g f).reg j = s.reg j := rfl

/-- A count register after counting. -/
theorem State.reg_count (s : State) (o n j : Nat) :
    (s.count o n).reg j = if j = o then s.reg j + BitVec.ofNat 64 n else s.reg j := by
  unfold State.count
  split
  · rename_i h; subst h; split <;> simp
  · rw [State.reg_setReg]; split
    · rename_i h; subst h; rfl
    · rfl

@[simp] theorem State.riser_setRiser_same (s : State) (r : Nat) (v : Riser) : (s.setRiser r v).riser r = v :=
  SMap.get_set_same _ _ _ _

theorem State.riser_setRiser_other (s : State) (r j : Nat) (v : Riser) (h : j ≠ r) : (s.setRiser r v).riser j = s.riser j :=
  SMap.get_set_other _ _ _ _ _ h

/-! ## A mould -/

@[simp] theorem Mould.setX_p (m : Mould) (r : Nat) (v : W64) : (m.setX r v).p = m.p := by unfold Mould.setX; split <;> rfl
@[simp] theorem Mould.setX_d (m : Mould) (r : Nat) (v : W64) : (m.setX r v).d = m.d := by unfold Mould.setX; split <;> rfl
@[simp] theorem Mould.setX_s (m : Mould) (r : Nat) (v : W64) : (m.setX r v).s = m.s := by unfold Mould.setX; split <;> rfl
@[simp] theorem Mould.setX_producers (m : Mould) (r : Nat) (v : W64) : (m.setX r v).producers = m.producers := by unfold Mould.setX; split <;> rfl
@[simp] theorem Mould.setX_pc (m : Mould) (r : Nat) (v : W64) : (m.setX r v).pc = m.pc := by unfold Mould.setX; split <;> rfl
@[simp] theorem Mould.setX_imem (m : Mould) (r : Nat) (v : W64) : (m.setX r v).imem = m.imem := by unfold Mould.setX; split <;> rfl
@[simp] theorem Mould.setX_dmem (m : Mould) (r : Nat) (v : W64) : (m.setX r v).dmem = m.dmem := by unfold Mould.setX; split <;> rfl
@[simp] theorem Mould.setX_ocache (m : Mould) (r : Nat) (v : W64) : (m.setX r v).ocache = m.ocache := by unfold Mould.setX; split <;> rfl
@[simp] theorem Mould.setX_rows (m : Mould) (r : Nat) (v : W64) : (m.setX r v).rows = m.rows := by unfold Mould.setX; split <;> rfl
@[simp] theorem Mould.setX_acc (m : Mould) (r : Nat) (v : W64) : (m.setX r v).acc = m.acc := by unfold Mould.setX; split <;> rfl
@[simp] theorem Mould.setX_edit (m : Mould) (r : Nat) (v : W64) : (m.setX r v).edit = m.edit := by unfold Mould.setX; split <;> rfl
@[simp] theorem Mould.setX_ep (m : Mould) (r : Nat) (v : W64) : (m.setX r v).ep = m.ep := by unfold Mould.setX; split <;> rfl
@[simp] theorem Mould.setX_ftq (m : Mould) (r : Nat) (v : W64) : (m.setX r v).ftq = m.ftq := by unfold Mould.setX; split <;> rfl
@[simp] theorem Mould.setX_ftqPend (m : Mould) (r : Nat) (v : W64) : (m.setX r v).ftqPend = m.ftqPend := by unfold Mould.setX; split <;> rfl
@[simp] theorem Mould.setX_queues (m : Mould) (r : Nat) (v : W64) : (m.setX r v).queues = m.queues := by unfold Mould.setX; split <;> rfl
@[simp] theorem Mould.setX_tokIssued (m : Mould) (r : Nat) (v : W64) : (m.setX r v).tokIssued = m.tokIssued := by unfold Mould.setX; split <;> rfl
@[simp] theorem Mould.setX_tokSignalled (m : Mould) (r : Nat) (v : W64) : (m.setX r v).tokSignalled = m.tokSignalled := by unfold Mould.setX; split <;> rfl
@[simp] theorem Mould.setX_tokMore (m : Mould) (r : Nat) (v : W64) : (m.setX r v).tokMore = m.tokMore := by unfold Mould.setX; split <;> rfl
@[simp] theorem Mould.setX_launched (m : Mould) (r : Nat) (v : W64) : (m.setX r v).launched = m.launched := by unfold Mould.setX; split <;> rfl
@[simp] theorem Mould.setX_wait (m : Mould) (r : Nat) (v : W64) : (m.setX r v).wait = m.wait := by unfold Mould.setX; split <;> rfl
@[simp] theorem Mould.setX_running (m : Mould) (r : Nat) (v : W64) : (m.setX r v).running = m.running := by unfold Mould.setX; split <;> rfl
@[simp] theorem Mould.setX_halted (m : Mould) (r : Nat) (v : W64) : (m.setX r v).halted = m.halted := by unfold Mould.setX; split <;> rfl
@[simp] theorem Mould.setX_stopped (m : Mould) (r : Nat) (v : W64) : (m.setX r v).stopped = m.stopped := by unfold Mould.setX; split <;> rfl
@[simp] theorem Mould.setX_engWait (m : Mould) (r : Nat) (v : W64) : (m.setX r v).engWait = m.engWait := by unfold Mould.setX; split <;> rfl
@[simp] theorem Mould.setX_digests (m : Mould) (r : Nat) (v : W64) : (m.setX r v).digests = m.digests := by unfold Mould.setX; split <;> rfl
@[simp] theorem Mould.setX_oldDigests (m : Mould) (r : Nat) (v : W64) : (m.setX r v).oldDigests = m.oldDigests := by unfold Mould.setX; split <;> rfl
@[simp] theorem Mould.setX_loaded (m : Mould) (r : Nat) (v : W64) : (m.setX r v).loaded = m.loaded := by unfold Mould.setX; split <;> rfl
@[simp] theorem Mould.setX_inj (m : Mould) (r : Nat) (v : W64) : (m.setX r v).inj = m.inj := by unfold Mould.setX; split <;> rfl
@[simp] theorem Mould.setX_retries (m : Mould) (r : Nat) (v : W64) : (m.setX r v).retries = m.retries := by unfold Mould.setX; split <;> rfl
@[simp] theorem Mould.setX_ser (m : Mould) (r : Nat) (v : W64) : (m.setX r v).ser = m.ser := by unfold Mould.setX; split <;> rfl
@[simp] theorem Mould.setX_collIssued (m : Mould) (r : Nat) (v : W64) : (m.setX r v).collIssued = m.collIssued := by unfold Mould.setX; split <;> rfl
@[simp] theorem Mould.setX_arrivals (m : Mould) (r : Nat) (v : W64) : (m.setX r v).arrivals = m.arrivals := by unfold Mould.setX; split <;> rfl
@[simp] theorem Mould.setX_ckpt (m : Mould) (r : Nat) (v : W64) : (m.setX r v).ckpt = m.ckpt := by unfold Mould.setX; split <;> rfl
@[simp] theorem Mould.setX_spillCut (m : Mould) (r : Nat) (v : W64) : (m.setX r v).spillCut = m.spillCut := by unfold Mould.setX; split <;> rfl
@[simp] theorem Mould.setX_regs (m : Mould) (r : Nat) (v : W64) : (m.setX r v).regs = m.regs := by unfold Mould.setX; split <;> rfl

@[simp] theorem Mould.setP_x (m : Mould) (r : Nat) (b : Bool) : (m.setP r b).x = m.x := by unfold Mould.setP; split <;> rfl
@[simp] theorem Mould.setP_d (m : Mould) (r : Nat) (b : Bool) : (m.setP r b).d = m.d := by unfold Mould.setP; split <;> rfl
@[simp] theorem Mould.setP_s (m : Mould) (r : Nat) (b : Bool) : (m.setP r b).s = m.s := by unfold Mould.setP; split <;> rfl
@[simp] theorem Mould.setP_producers (m : Mould) (r : Nat) (b : Bool) : (m.setP r b).producers = m.producers := by unfold Mould.setP; split <;> rfl
@[simp] theorem Mould.setP_pc (m : Mould) (r : Nat) (b : Bool) : (m.setP r b).pc = m.pc := by unfold Mould.setP; split <;> rfl
@[simp] theorem Mould.setP_imem (m : Mould) (r : Nat) (b : Bool) : (m.setP r b).imem = m.imem := by unfold Mould.setP; split <;> rfl
@[simp] theorem Mould.setP_dmem (m : Mould) (r : Nat) (b : Bool) : (m.setP r b).dmem = m.dmem := by unfold Mould.setP; split <;> rfl
@[simp] theorem Mould.setP_ocache (m : Mould) (r : Nat) (b : Bool) : (m.setP r b).ocache = m.ocache := by unfold Mould.setP; split <;> rfl
@[simp] theorem Mould.setP_rows (m : Mould) (r : Nat) (b : Bool) : (m.setP r b).rows = m.rows := by unfold Mould.setP; split <;> rfl
@[simp] theorem Mould.setP_acc (m : Mould) (r : Nat) (b : Bool) : (m.setP r b).acc = m.acc := by unfold Mould.setP; split <;> rfl
@[simp] theorem Mould.setP_edit (m : Mould) (r : Nat) (b : Bool) : (m.setP r b).edit = m.edit := by unfold Mould.setP; split <;> rfl
@[simp] theorem Mould.setP_ep (m : Mould) (r : Nat) (b : Bool) : (m.setP r b).ep = m.ep := by unfold Mould.setP; split <;> rfl
@[simp] theorem Mould.setP_ftq (m : Mould) (r : Nat) (b : Bool) : (m.setP r b).ftq = m.ftq := by unfold Mould.setP; split <;> rfl
@[simp] theorem Mould.setP_ftqPend (m : Mould) (r : Nat) (b : Bool) : (m.setP r b).ftqPend = m.ftqPend := by unfold Mould.setP; split <;> rfl
@[simp] theorem Mould.setP_queues (m : Mould) (r : Nat) (b : Bool) : (m.setP r b).queues = m.queues := by unfold Mould.setP; split <;> rfl
@[simp] theorem Mould.setP_tokIssued (m : Mould) (r : Nat) (b : Bool) : (m.setP r b).tokIssued = m.tokIssued := by unfold Mould.setP; split <;> rfl
@[simp] theorem Mould.setP_tokSignalled (m : Mould) (r : Nat) (b : Bool) : (m.setP r b).tokSignalled = m.tokSignalled := by unfold Mould.setP; split <;> rfl
@[simp] theorem Mould.setP_tokMore (m : Mould) (r : Nat) (b : Bool) : (m.setP r b).tokMore = m.tokMore := by unfold Mould.setP; split <;> rfl
@[simp] theorem Mould.setP_launched (m : Mould) (r : Nat) (b : Bool) : (m.setP r b).launched = m.launched := by unfold Mould.setP; split <;> rfl
@[simp] theorem Mould.setP_wait (m : Mould) (r : Nat) (b : Bool) : (m.setP r b).wait = m.wait := by unfold Mould.setP; split <;> rfl
@[simp] theorem Mould.setP_running (m : Mould) (r : Nat) (b : Bool) : (m.setP r b).running = m.running := by unfold Mould.setP; split <;> rfl
@[simp] theorem Mould.setP_halted (m : Mould) (r : Nat) (b : Bool) : (m.setP r b).halted = m.halted := by unfold Mould.setP; split <;> rfl
@[simp] theorem Mould.setP_stopped (m : Mould) (r : Nat) (b : Bool) : (m.setP r b).stopped = m.stopped := by unfold Mould.setP; split <;> rfl
@[simp] theorem Mould.setP_engWait (m : Mould) (r : Nat) (b : Bool) : (m.setP r b).engWait = m.engWait := by unfold Mould.setP; split <;> rfl
@[simp] theorem Mould.setP_digests (m : Mould) (r : Nat) (b : Bool) : (m.setP r b).digests = m.digests := by unfold Mould.setP; split <;> rfl
@[simp] theorem Mould.setP_oldDigests (m : Mould) (r : Nat) (b : Bool) : (m.setP r b).oldDigests = m.oldDigests := by unfold Mould.setP; split <;> rfl
@[simp] theorem Mould.setP_loaded (m : Mould) (r : Nat) (b : Bool) : (m.setP r b).loaded = m.loaded := by unfold Mould.setP; split <;> rfl
@[simp] theorem Mould.setP_inj (m : Mould) (r : Nat) (b : Bool) : (m.setP r b).inj = m.inj := by unfold Mould.setP; split <;> rfl
@[simp] theorem Mould.setP_retries (m : Mould) (r : Nat) (b : Bool) : (m.setP r b).retries = m.retries := by unfold Mould.setP; split <;> rfl
@[simp] theorem Mould.setP_ser (m : Mould) (r : Nat) (b : Bool) : (m.setP r b).ser = m.ser := by unfold Mould.setP; split <;> rfl
@[simp] theorem Mould.setP_collIssued (m : Mould) (r : Nat) (b : Bool) : (m.setP r b).collIssued = m.collIssued := by unfold Mould.setP; split <;> rfl
@[simp] theorem Mould.setP_arrivals (m : Mould) (r : Nat) (b : Bool) : (m.setP r b).arrivals = m.arrivals := by unfold Mould.setP; split <;> rfl
@[simp] theorem Mould.setP_ckpt (m : Mould) (r : Nat) (b : Bool) : (m.setP r b).ckpt = m.ckpt := by unfold Mould.setP; split <;> rfl
@[simp] theorem Mould.setP_spillCut (m : Mould) (r : Nat) (b : Bool) : (m.setP r b).spillCut = m.spillCut := by unfold Mould.setP; split <;> rfl
@[simp] theorem Mould.setP_regs (m : Mould) (r : Nat) (b : Bool) : (m.setP r b).regs = m.regs := by unfold Mould.setP; split <;> rfl

@[simp] theorem Mould.setD_x (m : Mould) (r : Nat) (v : W512) : (m.setD r v).x = m.x := rfl
@[simp] theorem Mould.setD_p (m : Mould) (r : Nat) (v : W512) : (m.setD r v).p = m.p := rfl
@[simp] theorem Mould.setD_s (m : Mould) (r : Nat) (v : W512) : (m.setD r v).s = m.s := rfl
@[simp] theorem Mould.setD_producers (m : Mould) (r : Nat) (v : W512) : (m.setD r v).producers = m.producers := rfl
@[simp] theorem Mould.setD_pc (m : Mould) (r : Nat) (v : W512) : (m.setD r v).pc = m.pc := rfl
@[simp] theorem Mould.setD_imem (m : Mould) (r : Nat) (v : W512) : (m.setD r v).imem = m.imem := rfl
@[simp] theorem Mould.setD_dmem (m : Mould) (r : Nat) (v : W512) : (m.setD r v).dmem = m.dmem := rfl
@[simp] theorem Mould.setD_ocache (m : Mould) (r : Nat) (v : W512) : (m.setD r v).ocache = m.ocache := rfl
@[simp] theorem Mould.setD_rows (m : Mould) (r : Nat) (v : W512) : (m.setD r v).rows = m.rows := rfl
@[simp] theorem Mould.setD_acc (m : Mould) (r : Nat) (v : W512) : (m.setD r v).acc = m.acc := rfl
@[simp] theorem Mould.setD_edit (m : Mould) (r : Nat) (v : W512) : (m.setD r v).edit = m.edit := rfl
@[simp] theorem Mould.setD_ep (m : Mould) (r : Nat) (v : W512) : (m.setD r v).ep = m.ep := rfl
@[simp] theorem Mould.setD_ftq (m : Mould) (r : Nat) (v : W512) : (m.setD r v).ftq = m.ftq := rfl
@[simp] theorem Mould.setD_ftqPend (m : Mould) (r : Nat) (v : W512) : (m.setD r v).ftqPend = m.ftqPend := rfl
@[simp] theorem Mould.setD_queues (m : Mould) (r : Nat) (v : W512) : (m.setD r v).queues = m.queues := rfl
@[simp] theorem Mould.setD_tokIssued (m : Mould) (r : Nat) (v : W512) : (m.setD r v).tokIssued = m.tokIssued := rfl
@[simp] theorem Mould.setD_tokSignalled (m : Mould) (r : Nat) (v : W512) : (m.setD r v).tokSignalled = m.tokSignalled := rfl
@[simp] theorem Mould.setD_tokMore (m : Mould) (r : Nat) (v : W512) : (m.setD r v).tokMore = m.tokMore := rfl
@[simp] theorem Mould.setD_launched (m : Mould) (r : Nat) (v : W512) : (m.setD r v).launched = m.launched := rfl
@[simp] theorem Mould.setD_wait (m : Mould) (r : Nat) (v : W512) : (m.setD r v).wait = m.wait := rfl
@[simp] theorem Mould.setD_running (m : Mould) (r : Nat) (v : W512) : (m.setD r v).running = m.running := rfl
@[simp] theorem Mould.setD_halted (m : Mould) (r : Nat) (v : W512) : (m.setD r v).halted = m.halted := rfl
@[simp] theorem Mould.setD_stopped (m : Mould) (r : Nat) (v : W512) : (m.setD r v).stopped = m.stopped := rfl
@[simp] theorem Mould.setD_engWait (m : Mould) (r : Nat) (v : W512) : (m.setD r v).engWait = m.engWait := rfl
@[simp] theorem Mould.setD_digests (m : Mould) (r : Nat) (v : W512) : (m.setD r v).digests = m.digests := rfl
@[simp] theorem Mould.setD_oldDigests (m : Mould) (r : Nat) (v : W512) : (m.setD r v).oldDigests = m.oldDigests := rfl
@[simp] theorem Mould.setD_loaded (m : Mould) (r : Nat) (v : W512) : (m.setD r v).loaded = m.loaded := rfl
@[simp] theorem Mould.setD_inj (m : Mould) (r : Nat) (v : W512) : (m.setD r v).inj = m.inj := rfl
@[simp] theorem Mould.setD_retries (m : Mould) (r : Nat) (v : W512) : (m.setD r v).retries = m.retries := rfl
@[simp] theorem Mould.setD_ser (m : Mould) (r : Nat) (v : W512) : (m.setD r v).ser = m.ser := rfl
@[simp] theorem Mould.setD_collIssued (m : Mould) (r : Nat) (v : W512) : (m.setD r v).collIssued = m.collIssued := rfl
@[simp] theorem Mould.setD_arrivals (m : Mould) (r : Nat) (v : W512) : (m.setD r v).arrivals = m.arrivals := rfl
@[simp] theorem Mould.setD_ckpt (m : Mould) (r : Nat) (v : W512) : (m.setD r v).ckpt = m.ckpt := rfl
@[simp] theorem Mould.setD_spillCut (m : Mould) (r : Nat) (v : W512) : (m.setD r v).spillCut = m.spillCut := rfl
@[simp] theorem Mould.setD_regs (m : Mould) (r : Nat) (v : W512) : (m.setD r v).regs = m.regs := rfl

@[simp] theorem Mould.setAcc_x (m : Mould) (t : Nat) (a : AccTile) : (m.setAcc t a).x = m.x := rfl
@[simp] theorem Mould.setAcc_p (m : Mould) (t : Nat) (a : AccTile) : (m.setAcc t a).p = m.p := rfl
@[simp] theorem Mould.setAcc_d (m : Mould) (t : Nat) (a : AccTile) : (m.setAcc t a).d = m.d := rfl
@[simp] theorem Mould.setAcc_s (m : Mould) (t : Nat) (a : AccTile) : (m.setAcc t a).s = m.s := rfl
@[simp] theorem Mould.setAcc_producers (m : Mould) (t : Nat) (a : AccTile) : (m.setAcc t a).producers = m.producers := rfl
@[simp] theorem Mould.setAcc_pc (m : Mould) (t : Nat) (a : AccTile) : (m.setAcc t a).pc = m.pc := rfl
@[simp] theorem Mould.setAcc_imem (m : Mould) (t : Nat) (a : AccTile) : (m.setAcc t a).imem = m.imem := rfl
@[simp] theorem Mould.setAcc_dmem (m : Mould) (t : Nat) (a : AccTile) : (m.setAcc t a).dmem = m.dmem := rfl
@[simp] theorem Mould.setAcc_ocache (m : Mould) (t : Nat) (a : AccTile) : (m.setAcc t a).ocache = m.ocache := rfl
@[simp] theorem Mould.setAcc_rows (m : Mould) (t : Nat) (a : AccTile) : (m.setAcc t a).rows = m.rows := rfl
@[simp] theorem Mould.setAcc_edit (m : Mould) (t : Nat) (a : AccTile) : (m.setAcc t a).edit = m.edit := rfl
@[simp] theorem Mould.setAcc_ep (m : Mould) (t : Nat) (a : AccTile) : (m.setAcc t a).ep = m.ep := rfl
@[simp] theorem Mould.setAcc_ftq (m : Mould) (t : Nat) (a : AccTile) : (m.setAcc t a).ftq = m.ftq := rfl
@[simp] theorem Mould.setAcc_ftqPend (m : Mould) (t : Nat) (a : AccTile) : (m.setAcc t a).ftqPend = m.ftqPend := rfl
@[simp] theorem Mould.setAcc_queues (m : Mould) (t : Nat) (a : AccTile) : (m.setAcc t a).queues = m.queues := rfl
@[simp] theorem Mould.setAcc_tokIssued (m : Mould) (t : Nat) (a : AccTile) : (m.setAcc t a).tokIssued = m.tokIssued := rfl
@[simp] theorem Mould.setAcc_tokSignalled (m : Mould) (t : Nat) (a : AccTile) : (m.setAcc t a).tokSignalled = m.tokSignalled := rfl
@[simp] theorem Mould.setAcc_tokMore (m : Mould) (t : Nat) (a : AccTile) : (m.setAcc t a).tokMore = m.tokMore := rfl
@[simp] theorem Mould.setAcc_launched (m : Mould) (t : Nat) (a : AccTile) : (m.setAcc t a).launched = m.launched := rfl
@[simp] theorem Mould.setAcc_wait (m : Mould) (t : Nat) (a : AccTile) : (m.setAcc t a).wait = m.wait := rfl
@[simp] theorem Mould.setAcc_running (m : Mould) (t : Nat) (a : AccTile) : (m.setAcc t a).running = m.running := rfl
@[simp] theorem Mould.setAcc_halted (m : Mould) (t : Nat) (a : AccTile) : (m.setAcc t a).halted = m.halted := rfl
@[simp] theorem Mould.setAcc_stopped (m : Mould) (t : Nat) (a : AccTile) : (m.setAcc t a).stopped = m.stopped := rfl
@[simp] theorem Mould.setAcc_engWait (m : Mould) (t : Nat) (a : AccTile) : (m.setAcc t a).engWait = m.engWait := rfl
@[simp] theorem Mould.setAcc_digests (m : Mould) (t : Nat) (a : AccTile) : (m.setAcc t a).digests = m.digests := rfl
@[simp] theorem Mould.setAcc_oldDigests (m : Mould) (t : Nat) (a : AccTile) : (m.setAcc t a).oldDigests = m.oldDigests := rfl
@[simp] theorem Mould.setAcc_loaded (m : Mould) (t : Nat) (a : AccTile) : (m.setAcc t a).loaded = m.loaded := rfl
@[simp] theorem Mould.setAcc_inj (m : Mould) (t : Nat) (a : AccTile) : (m.setAcc t a).inj = m.inj := rfl
@[simp] theorem Mould.setAcc_retries (m : Mould) (t : Nat) (a : AccTile) : (m.setAcc t a).retries = m.retries := rfl
@[simp] theorem Mould.setAcc_ser (m : Mould) (t : Nat) (a : AccTile) : (m.setAcc t a).ser = m.ser := rfl
@[simp] theorem Mould.setAcc_collIssued (m : Mould) (t : Nat) (a : AccTile) : (m.setAcc t a).collIssued = m.collIssued := rfl
@[simp] theorem Mould.setAcc_arrivals (m : Mould) (t : Nat) (a : AccTile) : (m.setAcc t a).arrivals = m.arrivals := rfl
@[simp] theorem Mould.setAcc_ckpt (m : Mould) (t : Nat) (a : AccTile) : (m.setAcc t a).ckpt = m.ckpt := rfl
@[simp] theorem Mould.setAcc_spillCut (m : Mould) (t : Nat) (a : AccTile) : (m.setAcc t a).spillCut = m.spillCut := rfl
@[simp] theorem Mould.setAcc_regs (m : Mould) (t : Nat) (a : AccTile) : (m.setAcc t a).regs = m.regs := rfl

@[simp] theorem Mould.setQueue_x (m : Mould) (q : Nat) (l : List QEnt) : (m.setQueue q l).x = m.x := rfl
@[simp] theorem Mould.setQueue_p (m : Mould) (q : Nat) (l : List QEnt) : (m.setQueue q l).p = m.p := rfl
@[simp] theorem Mould.setQueue_d (m : Mould) (q : Nat) (l : List QEnt) : (m.setQueue q l).d = m.d := rfl
@[simp] theorem Mould.setQueue_s (m : Mould) (q : Nat) (l : List QEnt) : (m.setQueue q l).s = m.s := rfl
@[simp] theorem Mould.setQueue_producers (m : Mould) (q : Nat) (l : List QEnt) : (m.setQueue q l).producers = m.producers := rfl
@[simp] theorem Mould.setQueue_pc (m : Mould) (q : Nat) (l : List QEnt) : (m.setQueue q l).pc = m.pc := rfl
@[simp] theorem Mould.setQueue_imem (m : Mould) (q : Nat) (l : List QEnt) : (m.setQueue q l).imem = m.imem := rfl
@[simp] theorem Mould.setQueue_dmem (m : Mould) (q : Nat) (l : List QEnt) : (m.setQueue q l).dmem = m.dmem := rfl
@[simp] theorem Mould.setQueue_ocache (m : Mould) (q : Nat) (l : List QEnt) : (m.setQueue q l).ocache = m.ocache := rfl
@[simp] theorem Mould.setQueue_rows (m : Mould) (q : Nat) (l : List QEnt) : (m.setQueue q l).rows = m.rows := rfl
@[simp] theorem Mould.setQueue_acc (m : Mould) (q : Nat) (l : List QEnt) : (m.setQueue q l).acc = m.acc := rfl
@[simp] theorem Mould.setQueue_edit (m : Mould) (q : Nat) (l : List QEnt) : (m.setQueue q l).edit = m.edit := rfl
@[simp] theorem Mould.setQueue_ep (m : Mould) (q : Nat) (l : List QEnt) : (m.setQueue q l).ep = m.ep := rfl
@[simp] theorem Mould.setQueue_ftq (m : Mould) (q : Nat) (l : List QEnt) : (m.setQueue q l).ftq = m.ftq := rfl
@[simp] theorem Mould.setQueue_ftqPend (m : Mould) (q : Nat) (l : List QEnt) : (m.setQueue q l).ftqPend = m.ftqPend := rfl
@[simp] theorem Mould.setQueue_tokIssued (m : Mould) (q : Nat) (l : List QEnt) : (m.setQueue q l).tokIssued = m.tokIssued := rfl
@[simp] theorem Mould.setQueue_tokSignalled (m : Mould) (q : Nat) (l : List QEnt) : (m.setQueue q l).tokSignalled = m.tokSignalled := rfl
@[simp] theorem Mould.setQueue_tokMore (m : Mould) (q : Nat) (l : List QEnt) : (m.setQueue q l).tokMore = m.tokMore := rfl
@[simp] theorem Mould.setQueue_launched (m : Mould) (q : Nat) (l : List QEnt) : (m.setQueue q l).launched = m.launched := rfl
@[simp] theorem Mould.setQueue_wait (m : Mould) (q : Nat) (l : List QEnt) : (m.setQueue q l).wait = m.wait := rfl
@[simp] theorem Mould.setQueue_running (m : Mould) (q : Nat) (l : List QEnt) : (m.setQueue q l).running = m.running := rfl
@[simp] theorem Mould.setQueue_halted (m : Mould) (q : Nat) (l : List QEnt) : (m.setQueue q l).halted = m.halted := rfl
@[simp] theorem Mould.setQueue_stopped (m : Mould) (q : Nat) (l : List QEnt) : (m.setQueue q l).stopped = m.stopped := rfl
@[simp] theorem Mould.setQueue_engWait (m : Mould) (q : Nat) (l : List QEnt) : (m.setQueue q l).engWait = m.engWait := rfl
@[simp] theorem Mould.setQueue_digests (m : Mould) (q : Nat) (l : List QEnt) : (m.setQueue q l).digests = m.digests := rfl
@[simp] theorem Mould.setQueue_oldDigests (m : Mould) (q : Nat) (l : List QEnt) : (m.setQueue q l).oldDigests = m.oldDigests := rfl
@[simp] theorem Mould.setQueue_loaded (m : Mould) (q : Nat) (l : List QEnt) : (m.setQueue q l).loaded = m.loaded := rfl
@[simp] theorem Mould.setQueue_inj (m : Mould) (q : Nat) (l : List QEnt) : (m.setQueue q l).inj = m.inj := rfl
@[simp] theorem Mould.setQueue_retries (m : Mould) (q : Nat) (l : List QEnt) : (m.setQueue q l).retries = m.retries := rfl
@[simp] theorem Mould.setQueue_ser (m : Mould) (q : Nat) (l : List QEnt) : (m.setQueue q l).ser = m.ser := rfl
@[simp] theorem Mould.setQueue_collIssued (m : Mould) (q : Nat) (l : List QEnt) : (m.setQueue q l).collIssued = m.collIssued := rfl
@[simp] theorem Mould.setQueue_arrivals (m : Mould) (q : Nat) (l : List QEnt) : (m.setQueue q l).arrivals = m.arrivals := rfl
@[simp] theorem Mould.setQueue_ckpt (m : Mould) (q : Nat) (l : List QEnt) : (m.setQueue q l).ckpt = m.ckpt := rfl
@[simp] theorem Mould.setQueue_spillCut (m : Mould) (q : Nat) (l : List QEnt) : (m.setQueue q l).spillCut = m.spillCut := rfl
@[simp] theorem Mould.setQueue_regs (m : Mould) (q : Nat) (l : List QEnt) : (m.setQueue q l).regs = m.regs := rfl

@[simp] theorem Mould.setReg_x (m : Mould) (o : Nat) (v : W64) : (m.setReg o v).x = m.x := rfl
@[simp] theorem Mould.setReg_p (m : Mould) (o : Nat) (v : W64) : (m.setReg o v).p = m.p := rfl
@[simp] theorem Mould.setReg_d (m : Mould) (o : Nat) (v : W64) : (m.setReg o v).d = m.d := rfl
@[simp] theorem Mould.setReg_s (m : Mould) (o : Nat) (v : W64) : (m.setReg o v).s = m.s := rfl
@[simp] theorem Mould.setReg_producers (m : Mould) (o : Nat) (v : W64) : (m.setReg o v).producers = m.producers := rfl
@[simp] theorem Mould.setReg_pc (m : Mould) (o : Nat) (v : W64) : (m.setReg o v).pc = m.pc := rfl
@[simp] theorem Mould.setReg_imem (m : Mould) (o : Nat) (v : W64) : (m.setReg o v).imem = m.imem := rfl
@[simp] theorem Mould.setReg_dmem (m : Mould) (o : Nat) (v : W64) : (m.setReg o v).dmem = m.dmem := rfl
@[simp] theorem Mould.setReg_ocache (m : Mould) (o : Nat) (v : W64) : (m.setReg o v).ocache = m.ocache := rfl
@[simp] theorem Mould.setReg_rows (m : Mould) (o : Nat) (v : W64) : (m.setReg o v).rows = m.rows := rfl
@[simp] theorem Mould.setReg_acc (m : Mould) (o : Nat) (v : W64) : (m.setReg o v).acc = m.acc := rfl
@[simp] theorem Mould.setReg_edit (m : Mould) (o : Nat) (v : W64) : (m.setReg o v).edit = m.edit := rfl
@[simp] theorem Mould.setReg_ep (m : Mould) (o : Nat) (v : W64) : (m.setReg o v).ep = m.ep := rfl
@[simp] theorem Mould.setReg_ftq (m : Mould) (o : Nat) (v : W64) : (m.setReg o v).ftq = m.ftq := rfl
@[simp] theorem Mould.setReg_ftqPend (m : Mould) (o : Nat) (v : W64) : (m.setReg o v).ftqPend = m.ftqPend := rfl
@[simp] theorem Mould.setReg_queues (m : Mould) (o : Nat) (v : W64) : (m.setReg o v).queues = m.queues := rfl
@[simp] theorem Mould.setReg_tokIssued (m : Mould) (o : Nat) (v : W64) : (m.setReg o v).tokIssued = m.tokIssued := rfl
@[simp] theorem Mould.setReg_tokSignalled (m : Mould) (o : Nat) (v : W64) : (m.setReg o v).tokSignalled = m.tokSignalled := rfl
@[simp] theorem Mould.setReg_tokMore (m : Mould) (o : Nat) (v : W64) : (m.setReg o v).tokMore = m.tokMore := rfl
@[simp] theorem Mould.setReg_launched (m : Mould) (o : Nat) (v : W64) : (m.setReg o v).launched = m.launched := rfl
@[simp] theorem Mould.setReg_wait (m : Mould) (o : Nat) (v : W64) : (m.setReg o v).wait = m.wait := rfl
@[simp] theorem Mould.setReg_running (m : Mould) (o : Nat) (v : W64) : (m.setReg o v).running = m.running := rfl
@[simp] theorem Mould.setReg_halted (m : Mould) (o : Nat) (v : W64) : (m.setReg o v).halted = m.halted := rfl
@[simp] theorem Mould.setReg_stopped (m : Mould) (o : Nat) (v : W64) : (m.setReg o v).stopped = m.stopped := rfl
@[simp] theorem Mould.setReg_engWait (m : Mould) (o : Nat) (v : W64) : (m.setReg o v).engWait = m.engWait := rfl
@[simp] theorem Mould.setReg_digests (m : Mould) (o : Nat) (v : W64) : (m.setReg o v).digests = m.digests := rfl
@[simp] theorem Mould.setReg_oldDigests (m : Mould) (o : Nat) (v : W64) : (m.setReg o v).oldDigests = m.oldDigests := rfl
@[simp] theorem Mould.setReg_loaded (m : Mould) (o : Nat) (v : W64) : (m.setReg o v).loaded = m.loaded := rfl
@[simp] theorem Mould.setReg_inj (m : Mould) (o : Nat) (v : W64) : (m.setReg o v).inj = m.inj := rfl
@[simp] theorem Mould.setReg_retries (m : Mould) (o : Nat) (v : W64) : (m.setReg o v).retries = m.retries := rfl
@[simp] theorem Mould.setReg_ser (m : Mould) (o : Nat) (v : W64) : (m.setReg o v).ser = m.ser := rfl
@[simp] theorem Mould.setReg_collIssued (m : Mould) (o : Nat) (v : W64) : (m.setReg o v).collIssued = m.collIssued := rfl
@[simp] theorem Mould.setReg_arrivals (m : Mould) (o : Nat) (v : W64) : (m.setReg o v).arrivals = m.arrivals := rfl
@[simp] theorem Mould.setReg_ckpt (m : Mould) (o : Nat) (v : W64) : (m.setReg o v).ckpt = m.ckpt := rfl
@[simp] theorem Mould.setReg_spillCut (m : Mould) (o : Nat) (v : W64) : (m.setReg o v).spillCut = m.spillCut := rfl

@[simp] theorem Mould.count_x (m : Mould) (o n : Nat) : (m.count o n).x = m.x := by unfold Mould.count; split <;> rfl
@[simp] theorem Mould.count_p (m : Mould) (o n : Nat) : (m.count o n).p = m.p := by unfold Mould.count; split <;> rfl
@[simp] theorem Mould.count_d (m : Mould) (o n : Nat) : (m.count o n).d = m.d := by unfold Mould.count; split <;> rfl
@[simp] theorem Mould.count_s (m : Mould) (o n : Nat) : (m.count o n).s = m.s := by unfold Mould.count; split <;> rfl
@[simp] theorem Mould.count_producers (m : Mould) (o n : Nat) : (m.count o n).producers = m.producers := by unfold Mould.count; split <;> rfl
@[simp] theorem Mould.count_pc (m : Mould) (o n : Nat) : (m.count o n).pc = m.pc := by unfold Mould.count; split <;> rfl
@[simp] theorem Mould.count_imem (m : Mould) (o n : Nat) : (m.count o n).imem = m.imem := by unfold Mould.count; split <;> rfl
@[simp] theorem Mould.count_dmem (m : Mould) (o n : Nat) : (m.count o n).dmem = m.dmem := by unfold Mould.count; split <;> rfl
@[simp] theorem Mould.count_ocache (m : Mould) (o n : Nat) : (m.count o n).ocache = m.ocache := by unfold Mould.count; split <;> rfl
@[simp] theorem Mould.count_rows (m : Mould) (o n : Nat) : (m.count o n).rows = m.rows := by unfold Mould.count; split <;> rfl
@[simp] theorem Mould.count_acc (m : Mould) (o n : Nat) : (m.count o n).acc = m.acc := by unfold Mould.count; split <;> rfl
@[simp] theorem Mould.count_edit (m : Mould) (o n : Nat) : (m.count o n).edit = m.edit := by unfold Mould.count; split <;> rfl
@[simp] theorem Mould.count_ep (m : Mould) (o n : Nat) : (m.count o n).ep = m.ep := by unfold Mould.count; split <;> rfl
@[simp] theorem Mould.count_ftq (m : Mould) (o n : Nat) : (m.count o n).ftq = m.ftq := by unfold Mould.count; split <;> rfl
@[simp] theorem Mould.count_ftqPend (m : Mould) (o n : Nat) : (m.count o n).ftqPend = m.ftqPend := by unfold Mould.count; split <;> rfl
@[simp] theorem Mould.count_queues (m : Mould) (o n : Nat) : (m.count o n).queues = m.queues := by unfold Mould.count; split <;> rfl
@[simp] theorem Mould.count_tokIssued (m : Mould) (o n : Nat) : (m.count o n).tokIssued = m.tokIssued := by unfold Mould.count; split <;> rfl
@[simp] theorem Mould.count_tokSignalled (m : Mould) (o n : Nat) : (m.count o n).tokSignalled = m.tokSignalled := by unfold Mould.count; split <;> rfl
@[simp] theorem Mould.count_tokMore (m : Mould) (o n : Nat) : (m.count o n).tokMore = m.tokMore := by unfold Mould.count; split <;> rfl
@[simp] theorem Mould.count_launched (m : Mould) (o n : Nat) : (m.count o n).launched = m.launched := by unfold Mould.count; split <;> rfl
@[simp] theorem Mould.count_wait (m : Mould) (o n : Nat) : (m.count o n).wait = m.wait := by unfold Mould.count; split <;> rfl
@[simp] theorem Mould.count_running (m : Mould) (o n : Nat) : (m.count o n).running = m.running := by unfold Mould.count; split <;> rfl
@[simp] theorem Mould.count_halted (m : Mould) (o n : Nat) : (m.count o n).halted = m.halted := by unfold Mould.count; split <;> rfl
@[simp] theorem Mould.count_stopped (m : Mould) (o n : Nat) : (m.count o n).stopped = m.stopped := by unfold Mould.count; split <;> rfl
@[simp] theorem Mould.count_engWait (m : Mould) (o n : Nat) : (m.count o n).engWait = m.engWait := by unfold Mould.count; split <;> rfl
@[simp] theorem Mould.count_digests (m : Mould) (o n : Nat) : (m.count o n).digests = m.digests := by unfold Mould.count; split <;> rfl
@[simp] theorem Mould.count_oldDigests (m : Mould) (o n : Nat) : (m.count o n).oldDigests = m.oldDigests := by unfold Mould.count; split <;> rfl
@[simp] theorem Mould.count_loaded (m : Mould) (o n : Nat) : (m.count o n).loaded = m.loaded := by unfold Mould.count; split <;> rfl
@[simp] theorem Mould.count_inj (m : Mould) (o n : Nat) : (m.count o n).inj = m.inj := by unfold Mould.count; split <;> rfl
@[simp] theorem Mould.count_retries (m : Mould) (o n : Nat) : (m.count o n).retries = m.retries := by unfold Mould.count; split <;> rfl
@[simp] theorem Mould.count_ser (m : Mould) (o n : Nat) : (m.count o n).ser = m.ser := by unfold Mould.count; split <;> rfl
@[simp] theorem Mould.count_collIssued (m : Mould) (o n : Nat) : (m.count o n).collIssued = m.collIssued := by unfold Mould.count; split <;> rfl
@[simp] theorem Mould.count_arrivals (m : Mould) (o n : Nat) : (m.count o n).arrivals = m.arrivals := by unfold Mould.count; split <;> rfl
@[simp] theorem Mould.count_ckpt (m : Mould) (o n : Nat) : (m.count o n).ckpt = m.ckpt := by unfold Mould.count; split <;> rfl
@[simp] theorem Mould.count_spillCut (m : Mould) (o n : Nat) : (m.count o n).spillCut = m.spillCut := by unfold Mould.count; split <;> rfl

@[simp] theorem Mould.orReg_x (m : Mould) (o : Nat) (v : W64) : (m.orReg o v).x = m.x := rfl
@[simp] theorem Mould.orReg_p (m : Mould) (o : Nat) (v : W64) : (m.orReg o v).p = m.p := rfl
@[simp] theorem Mould.orReg_d (m : Mould) (o : Nat) (v : W64) : (m.orReg o v).d = m.d := rfl
@[simp] theorem Mould.orReg_s (m : Mould) (o : Nat) (v : W64) : (m.orReg o v).s = m.s := rfl
@[simp] theorem Mould.orReg_producers (m : Mould) (o : Nat) (v : W64) : (m.orReg o v).producers = m.producers := rfl
@[simp] theorem Mould.orReg_pc (m : Mould) (o : Nat) (v : W64) : (m.orReg o v).pc = m.pc := rfl
@[simp] theorem Mould.orReg_imem (m : Mould) (o : Nat) (v : W64) : (m.orReg o v).imem = m.imem := rfl
@[simp] theorem Mould.orReg_dmem (m : Mould) (o : Nat) (v : W64) : (m.orReg o v).dmem = m.dmem := rfl
@[simp] theorem Mould.orReg_ocache (m : Mould) (o : Nat) (v : W64) : (m.orReg o v).ocache = m.ocache := rfl
@[simp] theorem Mould.orReg_rows (m : Mould) (o : Nat) (v : W64) : (m.orReg o v).rows = m.rows := rfl
@[simp] theorem Mould.orReg_acc (m : Mould) (o : Nat) (v : W64) : (m.orReg o v).acc = m.acc := rfl
@[simp] theorem Mould.orReg_edit (m : Mould) (o : Nat) (v : W64) : (m.orReg o v).edit = m.edit := rfl
@[simp] theorem Mould.orReg_ep (m : Mould) (o : Nat) (v : W64) : (m.orReg o v).ep = m.ep := rfl
@[simp] theorem Mould.orReg_ftq (m : Mould) (o : Nat) (v : W64) : (m.orReg o v).ftq = m.ftq := rfl
@[simp] theorem Mould.orReg_ftqPend (m : Mould) (o : Nat) (v : W64) : (m.orReg o v).ftqPend = m.ftqPend := rfl
@[simp] theorem Mould.orReg_queues (m : Mould) (o : Nat) (v : W64) : (m.orReg o v).queues = m.queues := rfl
@[simp] theorem Mould.orReg_tokIssued (m : Mould) (o : Nat) (v : W64) : (m.orReg o v).tokIssued = m.tokIssued := rfl
@[simp] theorem Mould.orReg_tokSignalled (m : Mould) (o : Nat) (v : W64) : (m.orReg o v).tokSignalled = m.tokSignalled := rfl
@[simp] theorem Mould.orReg_tokMore (m : Mould) (o : Nat) (v : W64) : (m.orReg o v).tokMore = m.tokMore := rfl
@[simp] theorem Mould.orReg_launched (m : Mould) (o : Nat) (v : W64) : (m.orReg o v).launched = m.launched := rfl
@[simp] theorem Mould.orReg_wait (m : Mould) (o : Nat) (v : W64) : (m.orReg o v).wait = m.wait := rfl
@[simp] theorem Mould.orReg_running (m : Mould) (o : Nat) (v : W64) : (m.orReg o v).running = m.running := rfl
@[simp] theorem Mould.orReg_halted (m : Mould) (o : Nat) (v : W64) : (m.orReg o v).halted = m.halted := rfl
@[simp] theorem Mould.orReg_stopped (m : Mould) (o : Nat) (v : W64) : (m.orReg o v).stopped = m.stopped := rfl
@[simp] theorem Mould.orReg_engWait (m : Mould) (o : Nat) (v : W64) : (m.orReg o v).engWait = m.engWait := rfl
@[simp] theorem Mould.orReg_digests (m : Mould) (o : Nat) (v : W64) : (m.orReg o v).digests = m.digests := rfl
@[simp] theorem Mould.orReg_oldDigests (m : Mould) (o : Nat) (v : W64) : (m.orReg o v).oldDigests = m.oldDigests := rfl
@[simp] theorem Mould.orReg_loaded (m : Mould) (o : Nat) (v : W64) : (m.orReg o v).loaded = m.loaded := rfl
@[simp] theorem Mould.orReg_inj (m : Mould) (o : Nat) (v : W64) : (m.orReg o v).inj = m.inj := rfl
@[simp] theorem Mould.orReg_retries (m : Mould) (o : Nat) (v : W64) : (m.orReg o v).retries = m.retries := rfl
@[simp] theorem Mould.orReg_ser (m : Mould) (o : Nat) (v : W64) : (m.orReg o v).ser = m.ser := rfl
@[simp] theorem Mould.orReg_collIssued (m : Mould) (o : Nat) (v : W64) : (m.orReg o v).collIssued = m.collIssued := rfl
@[simp] theorem Mould.orReg_arrivals (m : Mould) (o : Nat) (v : W64) : (m.orReg o v).arrivals = m.arrivals := rfl
@[simp] theorem Mould.orReg_ckpt (m : Mould) (o : Nat) (v : W64) : (m.orReg o v).ckpt = m.ckpt := rfl
@[simp] theorem Mould.orReg_spillCut (m : Mould) (o : Nat) (v : W64) : (m.orReg o v).spillCut = m.spillCut := rfl

@[simp] theorem Mould.advance_x (m : Mould) : (m.advance).x = m.x := rfl
@[simp] theorem Mould.advance_p (m : Mould) : (m.advance).p = m.p := rfl
@[simp] theorem Mould.advance_d (m : Mould) : (m.advance).d = m.d := rfl
@[simp] theorem Mould.advance_s (m : Mould) : (m.advance).s = m.s := rfl
@[simp] theorem Mould.advance_producers (m : Mould) : (m.advance).producers = m.producers := rfl
@[simp] theorem Mould.advance_imem (m : Mould) : (m.advance).imem = m.imem := rfl
@[simp] theorem Mould.advance_dmem (m : Mould) : (m.advance).dmem = m.dmem := rfl
@[simp] theorem Mould.advance_ocache (m : Mould) : (m.advance).ocache = m.ocache := rfl
@[simp] theorem Mould.advance_rows (m : Mould) : (m.advance).rows = m.rows := rfl
@[simp] theorem Mould.advance_acc (m : Mould) : (m.advance).acc = m.acc := rfl
@[simp] theorem Mould.advance_edit (m : Mould) : (m.advance).edit = m.edit := rfl
@[simp] theorem Mould.advance_ep (m : Mould) : (m.advance).ep = m.ep := rfl
@[simp] theorem Mould.advance_ftq (m : Mould) : (m.advance).ftq = m.ftq := rfl
@[simp] theorem Mould.advance_ftqPend (m : Mould) : (m.advance).ftqPend = m.ftqPend := rfl
@[simp] theorem Mould.advance_queues (m : Mould) : (m.advance).queues = m.queues := rfl
@[simp] theorem Mould.advance_tokIssued (m : Mould) : (m.advance).tokIssued = m.tokIssued := rfl
@[simp] theorem Mould.advance_tokSignalled (m : Mould) : (m.advance).tokSignalled = m.tokSignalled := rfl
@[simp] theorem Mould.advance_tokMore (m : Mould) : (m.advance).tokMore = m.tokMore := rfl
@[simp] theorem Mould.advance_launched (m : Mould) : (m.advance).launched = m.launched := rfl
@[simp] theorem Mould.advance_wait (m : Mould) : (m.advance).wait = m.wait := rfl
@[simp] theorem Mould.advance_running (m : Mould) : (m.advance).running = m.running := rfl
@[simp] theorem Mould.advance_halted (m : Mould) : (m.advance).halted = m.halted := rfl
@[simp] theorem Mould.advance_stopped (m : Mould) : (m.advance).stopped = m.stopped := rfl
@[simp] theorem Mould.advance_engWait (m : Mould) : (m.advance).engWait = m.engWait := rfl
@[simp] theorem Mould.advance_digests (m : Mould) : (m.advance).digests = m.digests := rfl
@[simp] theorem Mould.advance_oldDigests (m : Mould) : (m.advance).oldDigests = m.oldDigests := rfl
@[simp] theorem Mould.advance_loaded (m : Mould) : (m.advance).loaded = m.loaded := rfl
@[simp] theorem Mould.advance_inj (m : Mould) : (m.advance).inj = m.inj := rfl
@[simp] theorem Mould.advance_retries (m : Mould) : (m.advance).retries = m.retries := rfl
@[simp] theorem Mould.advance_ser (m : Mould) : (m.advance).ser = m.ser := rfl
@[simp] theorem Mould.advance_collIssued (m : Mould) : (m.advance).collIssued = m.collIssued := rfl
@[simp] theorem Mould.advance_arrivals (m : Mould) : (m.advance).arrivals = m.arrivals := rfl
@[simp] theorem Mould.advance_ckpt (m : Mould) : (m.advance).ckpt = m.ckpt := rfl
@[simp] theorem Mould.advance_spillCut (m : Mould) : (m.advance).spillCut = m.spillCut := rfl
@[simp] theorem Mould.advance_regs (m : Mould) : (m.advance).regs = m.regs := rfl

@[simp] theorem Mould.advance_pc (m : Mould) : m.advance.pc = m.pc + 1 := rfl
@[simp] theorem Mould.count_zero (m : Mould) (o : Nat) : m.count o 0 = m := rfl

/-- x registers after a write: x0 keeps reading zero (R167). -/
theorem Mould.getX_setX (m : Mould) (r j : Nat) (v : W64) :
    (m.setX r v).getX j = if j = r ∧ r ≠ 0 then v else m.getX j := by
  unfold Mould.setX Mould.getX
  by_cases hr : r = 0
  · subst hr; simp
  · by_cases hj : j = 0
    · subst hj; simp [hr, Ne.symm hr]
    · simp only [if_neg hj, ne_eq, hr, not_false_eq_true, and_true, if_false, SMap.get_set]

@[simp] theorem Mould.getX_zero (m : Mould) : m.getX 0 = 0 := rfl
@[simp] theorem Mould.getX_advance (m : Mould) (r : Nat) : m.advance.getX r = m.getX r := rfl
@[simp] theorem Mould.getX_count (m : Mould) (o n r : Nat) : (m.count o n).getX r = m.getX r := by
  simp [Mould.getX]
@[simp] theorem Mould.getP_zero (m : Mould) : m.getP 0 = true := rfl
@[simp] theorem Mould.getP_advance (m : Mould) (r : Nat) : m.advance.getP r = m.getP r := rfl

/-- A write to p0 is discarded (R167). -/
@[simp] theorem Mould.setP_zero (m : Mould) (b : Bool) : m.setP 0 b = m := rfl

/-- Mould registers after a write. -/
theorem Mould.reg_setReg (m : Mould) (o j : Nat) (v : W64) : (m.setReg o v).reg j = if j = o then v else m.reg j := by
  unfold Mould.setReg Mould.reg
  by_cases h : j = o
  · subst h; simp
  · rw [if_neg h]
    show SMap.get (mouldReset j) (SMap.set (mouldReset o) m.regs o v) j = _
    unfold SMap.set
    split
    · rw [SMap.get_filter, if_neg h]
    · rw [SMap.get_ins, if_neg h]

@[simp] theorem Mould.reg_setReg_same (m : Mould) (o : Nat) (v : W64) : (m.setReg o v).reg o = v := by
  rw [Mould.reg_setReg, if_pos rfl]

theorem Mould.reg_count (m : Mould) (o n j : Nat) :
    (m.count o n).reg j = if j = o then m.reg j + BitVec.ofNat 64 n else m.reg j := by
  unfold Mould.count
  split
  · rename_i h; subst h; split <;> simp
  · rw [Mould.reg_setReg]; split
    · rename_i h; subst h; rfl
    · rfl

/-- Queues after one is set. -/
theorem Mould.queue_setQueue (m : Mould) (q j : Nat) (l : List QEnt) :
    (m.setQueue q l).queue j = if j = q then l else m.queue j := SMap.get_set _ _ _ _ _

@[simp] theorem Mould.queue_setQueue_same (m : Mould) (q : Nat) (l : List QEnt) : (m.setQueue q l).queue q = l := by
  rw [Mould.queue_setQueue, if_pos rfl]

/-- Accumulator tiles after one is set. -/
theorem Mould.getAcc_setAcc (m : Mould) (t j : Nat) (a : AccTile) :
    (m.setAcc t a).getAcc j = if j = t then a else m.getAcc j := SMap.get_set _ _ _ _ _

/-- Descriptor registers after one is set. -/
theorem Mould.getD_setD (m : Mould) (r j : Nat) (v : W512) :
    (m.setD r v).getD j = if j = r then v else m.getD j := SMap.get_set _ _ _ _ _

/-! ## The pair -/

/-- While the pair cannot issue, an instruction leaves the state as it is. -/
theorem pairStep_blocked (h : Hdr) (s : State) (f : State → State) (hi : (s.mould h.m.toNat).issues = false) :
    pairStep h s f = s := by simp [pairStep, hi]

/-- With a false guard an instruction only retires (R200). -/
theorem pairStep_false (h : Hdr) (s : State) (f : State → State) (hi : (s.mould h.m.toNat).issues = true)
    (hg : guardTrue h (s.mould h.m.toNat) = false) :
    pairStep h s f = s.setMould h.m.toNat (s.mould h.m.toNat).advance := by simp [pairStep, hi, hg]

/-- With a true guard the effect applies to the mould whose PC has moved past the instruction. -/
theorem pairStep_true (h : Hdr) (s : State) (f : State → State) (hi : (s.mould h.m.toNat).issues = true)
    (hg : guardTrue h (s.mould h.m.toNat) = true) :
    pairStep h s f =
      f (s.setMould h.m.toNat ((s.mould h.m.toNat).advance.count Reg.CTL_CNT_VIOL (b2n h.rsv))) := by
  simp [pairStep, hi, hg]

/-- Everything that an instruction of the pair that only touches its own mould can do. -/
theorem pairLocal_cases (h : Hdr) (s : State) (f : Mould → Mould) :
    pairLocal h s f = s ∨ pairLocal h s f = s.setMould h.m.toNat (s.mould h.m.toNat).advance ∨
      pairLocal h s f = (s.setMould h.m.toNat ((s.mould h.m.toNat).advance.count Reg.CTL_CNT_VIOL (b2n h.rsv))).updMould
        h.m.toNat f := by
  unfold pairLocal pairStep
  simp only []
  split
  · exact .inl rfl
  · split
    · exact .inr (.inl rfl)
    · exact .inr (.inr rfl)

/-- Within a heat a tensor, move, check or synchronisation instruction is a plain step of the pair (R223). -/
theorem pairHeat_running (h : Hdr) (i : Instr) (s : State) (f : State → State)
    (hr : (s.mould h.m.toNat).reg Reg.MID_HEAT_STATE = 1) : pairHeat h i s f = pairStep h s f := by
  simp [pairHeat, hr]

/-- An instruction of the pair that only touches its own mould leaves every other mould as it was. -/
theorem pairLocal_other (h : Hdr) (s : State) (f : Mould → Mould) (j : Nat) (hj : j ≠ h.m.toNat) :
    (pairLocal h s f).mould j = s.mould j := by
  rcases pairLocal_cases h s f with e | e | e <;> rw [e]
  · exact State.mould_setMould_other _ _ _ _ hj
  · rw [State.mould_updMould_other _ _ _ _ hj, State.mould_setMould_other _ _ _ _ hj]

end Sys2Proof.Machine
end

