-- ==== Sys2Proof/Safety.lean ====
section
/-! DEFINITION. The terms in which claims speak of a run: when a pair takes an instruction, when work runs and when nothing is
left to run, and which states a safe run passes through. -/
namespace Sys2Proof.Machine

/-- The pair of the instruction's index takes it now, and its guard is true (R173, R200). -/
def Ready (h : Hdr) (s : State) : Prop :=
  (s.mould h.m.toNat).issues = true ∧ guardTrue h (s.mould h.m.toNat) = true

/-- The same within a heat (R223). -/
def InHeat (h : Hdr) (s : State) : Prop := Ready h s ∧ (s.mould h.m.toNat).reg Reg.MID_HEAT_STATE = 1

/-- The mould once its PC has moved past an instruction whose reserved fields, if any is set, count once (R201). -/
def past (h : Hdr) (s : State) : Mould := (s.mould h.m.toNat).advance.count Reg.CTL_CNT_VIOL (b2n h.rsv)

/-- Where work runs: the head of queue q of mould g, or the command at the head of riser r's queue. -/
inductive Site where
  | head (g q : Nat)
  | riser (r : Nat)
  deriving DecidableEq, Repr

/-- What a site does now, if nothing holds it. -/
def Site.run (s : State) : Site → Option State
  | .head g q => if q < 6 then runHead s g q else none
  | .riser r => if r < 8 then runRiserQueue s r else none

/-- Nothing in the module can run, and no pair that waits for its own queues can go on. -/
def Still (s : State) : Prop := (∀ x : Site, x.run s = none) ∧ ∀ g : Nat, pairReady s g = s

/-- From u to v by sites of which each in turn is the only one that can run, until nothing can. -/
def Chain : List Site → State → State → Prop
  | [], u, v => u = v ∧ Still u
  | x :: xs, u, v => (∀ y : Site, y ≠ x → y.run u = none) ∧ ∃ w, x.run u = some w ∧ Chain xs w v

/-- The state in which an instruction has just entered queue q of its mould with work w (R173). -/
def entered (h : Hdr) (s : State) (q : Nat) (w : State → Work) : State :=
  let s := s.setMould h.m.toNat (past h s)
  s.enqueue h.m.toNat q (w s)

/-- Every memory of the module is in canonical form. -/
def State.memoriesOk (s : State) : Bool :=
  s.mem.wf && s.moulds.all fun e => e.2.dmem.wf && e.2.ocache.wf && (match e.2.ckpt with
    | some c => c.dmem.wf
    | none => true)

/-- A state of a safe run: its memories are canonical. -/
def State.safe (s : State) : Bool := s.memoriesOk

end Sys2Proof.Machine
end

