-- ==== Sys2Proof/WellFormed.lean ====
section
/-! DEFINITION. Which commands are well-formed: a Moarax command as its word would be decoded (a field that R215, R241, R250
or R201 reserves is zero), and messages and events whose sizes and numbers are those of their own rules. The machine gives
every command a next state, well-formed or not. -/
namespace Sys2Proof

/-- `MOVE` and `MFILL` leave `BUF` and [20:0] zero (R215). -/
def MoveOps.plain (o : MoveOps) : Bool := o.buf == 0 && o.nr == 0 && o.nc == 0

/-- R241: the fields that a minor opcode of class 0x09 reserves. -/
def PatOps.pruneOk (o : PatOps) : Bool := o.rc == 0 && o.rd == 0 && !o.pq && !o.discard
def PatOps.growOk (o : PatOps) : Bool := !o.discard
def PatOps.compactOk (o : PatOps) : Bool := o.dq == 0 && o.rc == 0 && o.rd == 0 && o.scope == 0 && !o.pq

/-- R250: the fields that a minor opcode of class 0x0C reserves. -/
def RouteOps.unusedOk (o : RouteOps) (d2 ra rb sk : Bool) : Bool :=
  (!d2 || o.d2 == 0) && (!ra || o.ra == 0) && (!rb || o.rb == 0) && (!sk || o.sk == 0)

/-- R350: at most 8,192 payload bytes, and a tag of 16 bytes except in class 0. -/
def GoengoPkt.sized (p : GoengoPkt) : Bool :=
  decide (p.payload.length ≤ 8192) && p.tag.length == (if p.cls = 0 then 0 else 16)

/-- R354: X25519 32 B, ML-KEM-768 1,184 B, nonce 32 B, Ed25519 32 B, ML-DSA-65 1,952 B. -/
def helloSized (x k n e d : List Byte) : Bool :=
  x.length == 32 && k.length == 1184 && n.length == 32 && e.length == 32 && d.length == 1952

/-- R331 step 1: a member's rank lies below M, and the header gives six extents. -/
def CollHeader.sized (hd : CollHeader) (rank : Nat) : Bool := decide (rank < hd.members) && hd.ext.length == 6

/-- A command is well-formed. -/
def Instr.wellFormed (i : Instr) : Bool :=
  match i with
  | .reservedOpcode h => !h.rsv
  | .move _ o => o.plain
  | .mfill _ o => o.plain
  | .prune _ o => o.pruneOk
  | .grow _ o => o.growOk
  | .compact _ o => o.compactOk
  | .rsel _ o => o.unusedOk false false true false
  | .dispatch _ o => o.unusedOk true false false false
  | .return_ _ o => o.unusedOk true false true true
  | .combine _ o => o.unusedOk true false false true
  | .gather _ o => o.unusedOk false true true true
  | .scatter _ o => o.unusedOk false true true true
  | .tskip _ o => o.unusedOk true true true false
  | .barrierRelease device c _ => !device || c == 0
  | .packetArrival _ p => decide (p.body.length ≤ 544)
  | .linkStateMessage _ _ ls => ls.all fun l => decide (l.1 < 16)
  | .collectiveHeader _ _ rank hd => hd.sized rank
  | .dispatchCount _ _ _ cs => decide (cs.length ≤ 128)
  | .ethernetFrame f => decide (f.payload.length ≤ f.len.toNat)
  | .goengoPacket p => p.sized
  | .hello x k n e d => helloSized x k n e d
  | .finish _ a b => a.length == 64 && b.length == 3309
  | _ => true

/-- The header of a Moarax command. -/
def Instr.hdr (i : Instr) : Option Hdr :=
  match i with
  | .add h _ => some h
  | .sub h _ => some h
  | .and_ h _ => some h
  | .or_ h _ => some h
  | .xor_ h _ => some h
  | .shl h _ => some h
  | .shr h _ => some h
  | .sra h _ => some h
  | .mul h _ => some h
  | .mulhu h _ => some h
  | .mulh h _ => some h
  | .divu h _ => some h
  | .div h _ => some h
  | .remu h _ => some h
  | .rem h _ => some h
  | .min h _ => some h
  | .max h _ => some h
  | .minu h _ => some h
  | .maxu h _ => some h
  | .lih h _ => some h
  | .fadd h _ => some h
  | .fsub h _ => some h
  | .fmul h _ => some h
  | .fma h _ => some h
  | .fmin h _ => some h
  | .fmax h _ => some h
  | .fabs h _ => some h
  | .fneg h _ => some h
  | .ftoi h _ => some h
  | .itof h _ => some h
  | .pset h _ _ _ _ => some h
  | .pseti h _ _ _ _ => some h
  | .plog h _ _ _ _ => some h
  | .br h _ => some h
  | .jal h _ _ => some h
  | .jr h _ => some h
  | .bsum h _ _ _ _ => some h
  | .sget h _ _ => some h
  | .ldb h _ => some h
  | .ldbu h _ => some h
  | .ldh h _ => some h
  | .ldhu h _ => some h
  | .ldw h _ => some h
  | .ldwu h _ => some h
  | .ldd h _ => some h
  | .stb h _ => some h
  | .sth h _ => some h
  | .stw h _ => some h
  | .std h _ => some h
  | .mrld h _ => some h
  | .mrst h _ => some h
  | .ldoc h _ => some h
  | .dmk h _ => some h
  | .dsave h _ => some h
  | .dcopy h _ => some h
  | .doff h _ => some h
  | .dext h _ => some h
  | .dtid h _ => some h
  | .move h _ => some h
  | .mfill h _ => some h
  | .tbload h _ => some h
  | .qsig h _ _ => some h
  | .qwait h _ _ => some h
  | .fence h _ => some h
  | .barrier h _ _ _ => some h
  | .hwait h _ => some h
  | .hend h => some h
  | .cnt h _ => some h
  | .digest h _ _ _ _ => some h
  | .chkst h _ => some h
  | .chkinj h _ => some h
  | .reservedOpcode h => some h
  | .spmm h _ => some h
  | .spmmt h _ => some h
  | .spout h _ => some h
  | .sprobe h _ => some h
  | .dmm h _ => some h
  | .accwr h _ => some h
  | .accld h _ => some h
  | .prune h _ => some h
  | .grow h _ => some h
  | .compact h _ => some h
  | .epload h _ _ => some h
  | .vrun h _ => some h
  | .rscat h _ => some h
  | .agath h _ => some h
  | .ared h _ => some h
  | .a2a h _ => some h
  | .rnorm h _ => some h
  | .rsel h _ => some h
  | .dispatch h _ => some h
  | .return_ h _ => some h
  | .combine h _ => some h
  | .gather h _ => some h
  | .scatter h _ => some h
  | .tskip h _ => some h
  | .rupd h _ => some h
  | .rprog h _ _ _ => some h
  | .rfetch h _ _ _ => some h
  | .raudit h _ _ => some h
  | _ => none

end Sys2Proof
end

