-- ==== Sys2Proof/Certificates/Slice0/Obligations.lean ====
section
/-! DEFINITION. The statements for the provers. Each docstring names the rules of spec/ that its statement formalises. -/

open Sys2Proof Sys2Proof.Machine

namespace Sys2Proof.Claims

/-! ## Scalar instructions -/

/-- The constructors of R203 and their results on a and b. -/
def intOps : List ((Hdr → AluOps → Instr) × (W64 → W64 → W64)) :=
  [(.add, fun a b => a + b), (.sub, fun a b => a - b), (.and_, fun a b => a &&& b), (.or_, fun a b => a ||| b),
   (.xor_, fun a b => a ^^^ b),
   (.shl, fun a b => BitVec.ofNat 64 (a.toNat * 2 ^ (b.toNat % 64))),
   (.shr, fun a b => BitVec.ofNat 64 (a.toNat / 2 ^ (b.toNat % 64))),
   (.sra, fun a b => BitVec.ofInt 64 (a.toInt / 2 ^ (b.toNat % 64))),
   (.mul, fun a b => BitVec.ofNat 64 (a.toNat * b.toNat)),
   (.mulhu, fun a b => BitVec.ofNat 64 (a.toNat * b.toNat / 2 ^ 64)),
   (.mulh, fun a b => BitVec.ofInt 64 (a.toInt * b.toInt / 2 ^ 64)),
   (.divu, fun a b => if b = 0 then BitVec.allOnes 64 else BitVec.ofNat 64 (a.toNat / b.toNat)),
   (.div, fun a b => if b = 0 then BitVec.allOnes 64 else BitVec.ofInt 64 (a.toInt.tdiv b.toInt)),
   (.remu, fun a b => if b = 0 then a else BitVec.ofNat 64 (a.toNat % b.toNat)),
   (.rem, fun a b => if b = 0 then a else BitVec.ofInt 64 (a.toInt.tmod b.toInt)),
   (.min, fun a b => BitVec.ofInt 64 (min a.toInt b.toInt)),
   (.max, fun a b => BitVec.ofInt 64 (max a.toInt b.toInt)),
   (.minu, fun a b => BitVec.ofNat 64 (min a.toNat b.toNat)),
   (.maxu, fun a b => BitVec.ofNat 64 (max a.toNat b.toNat))]

/-- Second operand: x`RB`, or the sign-extended `IMM32` (R202). -/
def operandB (o : AluOps) (m : Mould) : W64 :=
  match o.src with
  | .reg rb => m.getX rb.toNat
  | .imm v => BitVec.ofInt 64 v.toInt

/-- Binary32 operations of R204 by constructor, on the low halves of a, b and c. -/
def fpOps : List ((Hdr → FpOps → Instr) × (W32 → W32 → W32 → W32)) :=
  [(.fadd, fun a b _ => Fp32.add false a b), (.fsub, fun a b _ => Fp32.sub false a b),
   (.fmul, fun a b _ => Fp32.mul false a b), (.fma, fun a b c => Fp32.fma false a b c),
   (.fmin, fun a b _ => Fp32.fmin a b), (.fmax, fun a b _ => Fp32.fmax a b),
   (.fabs, fun a _ _ => Fp32.abs a), (.fneg, fun a _ _ => Fp32.neg a)]

/-! ## Data memory -/

/-- Loads of R209: bytes, and whether the value is sign-extended. -/
def loadOps : List ((Hdr → ImmOps → Instr) × Nat × Bool) :=
  [(.ldb, 1, true), (.ldbu, 1, false), (.ldh, 2, true), (.ldhu, 2, false), (.ldw, 4, true), (.ldwu, 4, false),
   (.ldd, 8, false)]

/-- Stores of R209, with their bytes. -/
def storeOps : List ((Hdr → ImmOps → Instr) × Nat) := [(.stb, 1), (.sth, 2), (.stw, 4), (.std, 8)]

/-- Little-endian number of n bytes of a mould's data memory. -/
def dataNat (m : Mould) (a : Nat) : Nat → Nat
  | 0 => 0
  | n + 1 => dataNat m a n + (m.dmem.get (a + n)).toNat * 256 ^ n

/-- Everything of a state but the data memory and the registers of the pair's own mould. -/
def sameButMould (g : Nat) (s t : State) : Prop :=
  (∀ j, j ≠ g → t.mould j = s.mould j) ∧ t.regs = s.regs ∧ t.mem = s.mem ∧ t.barriers = s.barriers ∧ t.risers = s.risers ∧
    t.runner = s.runner ∧ t.host = s.host ∧ t.heats = s.heats ∧ t.pwr = s.pwr ∧ t.cnt = s.cnt ∧ t.pending = s.pending

/-! ## Instructions that the pair executes itself -/

/-- Scalar, predicate, branch, data-memory, register-space and descriptor instructions, `CNT`, `HWAIT` and the reserved words:
those that leave every engine queue alone. -/
def pairOnly (i : Instr) : Bool :=
  match i with
  | .add _ _ | .sub _ _ | .and_ _ _ | .or_ _ _ | .xor_ _ _ | .shl _ _ | .shr _ _ | .sra _ _ | .mul _ _ | .mulhu _ _
  | .mulh _ _ | .divu _ _ | .div _ _ | .remu _ _ | .rem _ _ | .min _ _ | .max _ _ | .minu _ _ | .maxu _ _ | .lih _ _
  | .fadd _ _ | .fsub _ _ | .fmul _ _ | .fma _ _ | .fmin _ _ | .fmax _ _ | .fabs _ _ | .fneg _ _ | .ftoi _ _ | .itof _ _
  | .pset _ _ _ _ _ | .pseti _ _ _ _ _ | .plog _ _ _ _ _ | .br _ _ | .jal _ _ _ | .jr _ _ | .bsum _ _ _ _ _ | .sget _ _ _
  | .ldb _ _ | .ldbu _ _ | .ldh _ _ | .ldhu _ _ | .ldw _ _ | .ldwu _ _ | .ldd _ _ | .stb _ _ | .sth _ _ | .stw _ _ | .std _ _
  | .mrld _ _ | .mrst _ _ | .ldoc _ _ | .dmk _ _ | .dsave _ _ | .dcopy _ _ | .doff _ _ | .dext _ _ | .dtid _ _
  | .hwait _ _ | .cnt _ _ | .reservedOpcode _ => true
  | _ => false

/-! ## Queued instructions -/

/-- What a queued instruction captures when it issues (R73, R74, R173), with its header and the number of its queue in the
order of R172 (R199): 0 matrix, 1 vector, 2 riddle, 3 memory move, 4 runner, 5 riser. -/
def captured (s0 : State) (i : Instr) : Option (Hdr × Nat × (State → Work)) :=
  let d (h : Hdr) (s : State) (r : BitVec 6) : W512 := (s.mould h.m.toNat).getD r.toNat
  let x (h : Hdr) (s : State) (r : BitVec 5) : W64 := (s.mould h.m.toNat).getX r.toNat
  let prod (k : ProdKind) (h : Hdr) (o n : ProdOps) : Option (Hdr × Nat × (State → Work)) :=
    some (hdrAlso h (o != n), 0, fun s => .product k n (d h s n.dw) (d h s n.dout) (d h s n.df) (x h s n.ra) (x h s n.rb) none)
  let coll (k : CollKind) (h : Hdr) (o : CollOps) : Option (Hdr × Nat × (State → Work)) :=
    some (h, 4, fun s =>
      let c := (s.mould h.m.toNat).descWords (x h s o.ra)
      .coll k o (d h s o.ds) (d h s o.dd) c.1 c.2 0 none)
  let route (q : Nat) (k : RouteKind) (desc : Bool) (h : Hdr) (o : RouteOps) : Option (Hdr × Nat × (State → Work)) :=
    some (h, q, fun s =>
      let c := if desc then (s.mould h.m.toNat).descWords (x h s o.ra) else ([], true)
      .route k o (d h s o.d0) (d h s o.d1) (d h s o.d2) (x h s o.ra) (x h s o.rb) c.1 c.2 0)
  match i with
  | .move h o => some (h, 3, fun s => .move o (d h s o.dd) (d h s o.da))
  | .mfill h o => some (h, 3, fun s => .mfill o (d h s o.dd) (x h s o.ra))
  | .tbload h o => some (h, 0, fun s => .tbload o (d h s o.da) (x h s o.ra) (x h s o.rb))
  | .digest h da ra r l => some (h, 3, fun s => .digest (d h s da) (x h s ra) r l)
  | .spmm h o => prod .spmm h o (normInner o)
  | .spmmt h o => prod .spmmt h o (normInner o)
  | .dmm h o => prod .dmm h o (normInner o)
  | .spout h o => prod .spout h o (normSpout o)
  | .sprobe h o => prod .sprobe h o (normSprobe o)
  | .accwr h o =>
    let n := normAccwr o
    some (hdrAlso h (o != n), 0, fun s => .accwr n (d h s n.dout) (d h s n.df) (x h s n.rb) none)
  | .accld h o =>
    let n := normAccld o
    some (hdrAlso h (o != n), 0, fun s => .accld n (d h s n.dw) (x h s n.rb))
  | .prune h o => some (h, 2, fun s => .prune o (d h s o.dw) (d h s o.dq) (x h s o.ra) (x h s o.rb) (s.modeBit 1) 0)
  | .grow h o =>
    some (hdrAlso h (!s0.modeBit 0 && o.dq != 0), 2, fun s =>
      .grow o (d h s o.dw) (d h s o.dq) (x h s o.ra) (x h s o.rb) (x h s o.rc) (x h s o.rd)
        (pcbCheck s h.m.toNat (d h s o.dw) (x h s o.rd)) (s.modeBit 0) 0)
  | .compact h o => some (h, 0, fun s =>
      .compact o (d h s o.dw) (x h s o.ra) (x h s o.rb) (pcbCheck s h.m.toNat (d h s o.dw) (x h s o.rb)) 0 0)
  | .epload h n ra => some (h, 1, fun s => .epload n.toNat (x h s ra))
  | .vrun h o => some (h, 1, fun s =>
      let map := x h s o.ra
      .vrun o map ((s.mould h.m.toNat).mapImages map) ((s.mould h.m.toNat).scalars o.kb) true [] 0)
  | .rscat h o => coll .rscat h o
  | .agath h o => coll .agath h o
  | .ared h o => coll .ared h o
  | .a2a h o => coll .a2a h o
  | .rnorm h o => coll .rnorm h o
  | .rsel h o => route 2 .rsel false h o
  | .tskip h o => route 2 .tskip false h o
  | .gather h o => route 4 .gather false h o
  | .scatter h o => route 4 .scatter false h o
  | .dispatch h o => route 4 .dispatch true h o
  | .return_ h o => route 4 .return_ true h o
  | .combine h o => route 4 .combine true h o
  | .rupd h o => some (h, 5, fun s => .rupd o (d h s o.dg) (d h s o.dw) ((s.mould h.m.toNat).scalars o.kb) (x h s o.ra) none 0)
  | .rprog h p ra r => some (h, 5, fun s =>
      match epWords (s.mould h.m.toNat).dmem (x h s ra).toNat with
      | some ws => .rprog p.toNat ws r.toNat true
      | none => .rprog p.toNat [] r.toNat false)
  | .rfetch h dd da k => some (h, 5, fun s => .rfetch (d h s dd) (d h s da) k.toNat 0)
  | .raudit h dw k => some (h, 5, fun s => .raudit (d h s dw) k.toNat 0)
  | _ => none

/-- Nothing keeps the instruction at the head of queue q of mould g from running (R17, R174, R188, R304). -/
def unheld (s : State) (g q seq : Nat) (w : Work) : Prop :=
  (s.mould g).stopped = false ∧ (s.mould g).mustWait q seq w = false ∧ w.hitsError s = false ∧
    (q = 0 → (s.mould g).engWait = .none) ∧ (q = 1 ∨ q = 3 → s.fallsBack g = false)

/-- What stands at the head of an empty queue once work w of an instruction has entered it: with the serial number of its
summary producer, 0 where it names none. -/
def atHead (h : Hdr) (s : State) (w : State → Work) : Work :=
  let u := s.setMould h.m.toNat (past h s)
  ((w u).atIssue u h.m.toNat).withSer (if ((w u).sk (past h s)).isSome then (s.mould h.m.toNat).ser + 1 else 0)

/-- An instruction whose work w enters the empty queue q alone: nothing else can run then, nothing holds it, and from t on nothing
can run. -/
def alone (h : Hdr) (q : Nat) (w : State → Work) (s t : State) : Prop :=
  InHeat h s ∧ (s.mould h.m.toNat).queue q = [] ∧ (entered h s q w).heats.endWait = [] ∧
  (∀ y : Site, y ≠ .head h.m.toNat q → y.run (entered h s q w) = none) ∧
  unheld (entered h s q w) h.m.toNat q ((s.mould h.m.toNat).ser + 1) (atHead h s w) ∧ Still t

/-- Address a holds part of an element of v: its data, with the padding of a last group of planes, its block's scale, or its bitmap
byte (R41, R75 to R77). -/
def holds (v : View) (a : Nat) : Prop :=
  ∃ (i : Nat) (o : List Nat), (∀ k, k < 5 → o.getD k 0 < v.e (k + 1)) ∧
    i < (if v.layout = .planar then cdiv (v.e 0) v.gsize * v.gsize else v.e 0) ∧
    (a ∈ v.elemBytes i o ∨ (v.blk ≠ 0 ∧ a = v.scaleAddr o (i / v.blk)) ∨ (v.zbm = true ∧ a = v.zbmAddr o + i / 8))

end Sys2Proof.Claims

open Sys2Proof.Claims

/-! ## The queue of commands -/

/-- A step takes the command at the front of the queue and runs it on the state with the queue's rest (log entry 1). -/
def Sys2Proof.Claims.stepRunsFrontCommand : Prop :=
  ∀ (c : Instr) (rest : List Instr) (s : State), s.pending = c :: rest → step s = exec c { s with pending := rest }

/-- With no command waiting the module idles (log entry 1: the model's choice). -/
def Sys2Proof.Claims.emptyQueueIdles : Prop := ∀ s : State, s.pending = [] → step s = .next s

/-- A step runs the command at the front of the queue on the state with its rest; with none waiting the module idles (log entry 1: the
model's choice). -/
def Obligations.StepTakesFront : Prop := Sys2Proof.Claims.stepRunsFrontCommand ∧ Sys2Proof.Claims.emptyQueueIdles

/-! ## The words of the instruction set -/

/-- R198 to R258, R453: decoding the word of a well-formed instruction with no reserved field set gives it back, for every
operand and every guard. -/
def Obligations.MoaraxDecodeOfEncode : Prop :=
  ∀ (i : Instr) (h : Hdr) (w : W64), i.hdr = some h → h.rsv = false → i.wellFormed = true → encodeMoarax i = some w →
    decodeMoarax h.m w = i

/-! ## The pair -/

/-- R203, with R171 for the divisions and R202 for the operand b: rd ← the result, the PC moves on by one, nothing else
changes but the count of a reserved field. -/
def Obligations.ScalarIntegerResult : Prop :=
  (∀ p ∈ intOps, ∀ (h : Hdr) (o : AluOps) (s : State), Ready h s →
    exec (p.1 h o) s = .next (s.setMould h.m.toNat
      ((past h s).setX o.rd.toNat (p.2 ((s.mould h.m.toNat).getX o.ra.toNat) (operandB o (s.mould h.m.toNat)))))) ∧
  ∀ (h : Hdr) (o : ImmOps) (s : State), Ready h s →
    exec (.lih h o) s = .next (s.setMould h.m.toNat ((past h s).setX o.rd.toNat
      (BitVec.ofNat 64 (o.imm.toNat * 2 ^ 32 + ((s.mould h.m.toNat).getX o.ra.toNat).toNat % 2 ^ 32))))

/-- R204: the result in rd[31:0] with zeros above; `FTOI` converts to i64 with clamping, `ITOF` from i64. -/
def Obligations.ScalarBinary32Result : Prop :=
  (∀ p ∈ fpOps, ∀ (h : Hdr) (o : FpOps) (s : State), Ready h s →
    let x (r : BitVec 5) : W32 := ((s.mould h.m.toNat).getX r.toNat).extractLsb' 0 32
    exec (p.1 h o) s = .next (s.setMould h.m.toNat
      ((past h s).setX o.rd.toNat (BitVec.ofNat 64 (p.2 (x o.ra) (x o.rb) (x o.rc)).toNat)))) ∧
  (∀ (h : Hdr) (o : FpOps) (s : State), Ready h s →
    exec (.ftoi h o) s = .next (s.setMould h.m.toNat ((past h s).setX o.rd.toNat
      (BitVec.ofInt 64 (Fp32.toInt 64 (((s.mould h.m.toNat).getX o.ra.toNat).extractLsb' 0 32)))))) ∧
  ∀ (h : Hdr) (o : FpOps) (s : State), Ready h s →
    exec (.itof h o) s = .next (s.setMould h.m.toNat ((past h s).setX o.rd.toNat
      (BitVec.ofNat 64 (Fp32.ofInt ((s.mould h.m.toNat).getX o.ra.toNat).toInt).toNat)))

/-- R167: a scalar integer instruction writes no x register but rd, none at all for rd = x0, and no other register; p0 reads
1 and x0 reads 0 before and after. -/
def Obligations.ScalarIntegerFrame : Prop :=
  ∀ p ∈ intOps, ∀ (h : Hdr) (o : AluOps) (s t : State), exec (p.1 h o) s = .next t →
    sameButMould h.m.toNat s t ∧ (t.mould h.m.toNat).getX 0 = 0 ∧ (t.mould h.m.toNat).getP 0 = true ∧
    (∀ r, r ≠ o.rd.toNat ∨ r = 0 → (t.mould h.m.toNat).getX r = (s.mould h.m.toNat).getX r) ∧
    (t.mould h.m.toNat).p = (s.mould h.m.toNat).p ∧ (t.mould h.m.toNat).d = (s.mould h.m.toNat).d ∧
    (t.mould h.m.toNat).s = (s.mould h.m.toNat).s ∧ (t.mould h.m.toNat).dmem = (s.mould h.m.toNat).dmem ∧
    (t.mould h.m.toNat).ocache = (s.mould h.m.toNat).ocache ∧ (t.mould h.m.toNat).acc = (s.mould h.m.toNat).acc ∧
    (t.mould h.m.toNat).queues = (s.mould h.m.toNat).queues ∧
    ∀ off, off ≠ Reg.CTL_CNT_VIOL → (t.mould h.m.toNat).reg off = (s.mould h.m.toNat).reg off

/-- R200: with a false guard an instruction only retires: it enters no queue, marks no summary register and counts nothing. Where the
instruction has a queue, that is so of the module as a whole where nothing else in it can run at that moment. -/
def Sys2Proof.Claims.falseGuard : Prop :=
  ∀ (i : Instr) (h : Hdr) (s : State), i.hdr = some h → (s.mould h.m.toNat).issues = true →
    guardTrue h (s.mould h.m.toNat) = false →
    let z := s.setMould h.m.toNat { s.mould h.m.toNat with pc := (s.mould h.m.toNat).pc + 1 }
    (pairOnly i = true → exec i s = .next z) ∧ (Still z → z.heats.endWait = [] → exec i s = .next z)

/-- R200: the guard is p`GPRED`, complemented if `GNEG` = 1; with `GPRED` = 0 it always, or never, lets the instruction execute. -/
def Sys2Proof.Claims.guardValue : Prop :=
  ∀ (h : Hdr) (m : Mould), (guardTrue h m = true ↔ m.getP h.gpred.toNat = !h.gneg) ∧
    (h.gpred = 0 → h.gneg = false → guardTrue h m = true) ∧ (h.gpred = 0 → h.gneg = true → guardTrue h m = false)

/-- R200: what the guard is, and what an instruction whose guard is false does. -/
def Obligations.FalseGuardOnlyRetires : Prop := Sys2Proof.Claims.falseGuard ∧ Sys2Proof.Claims.guardValue

/-- R206, R207: the predicate written is the condition, or the bit of `TT`; a reserved condition writes 0 and is counted
once. -/
def Sys2Proof.Claims.predicateResult : Prop :=
  (∀ (h : Hdr) (pd : BitVec 3) (ra rb : BitVec 5) (c : BitVec 4) (s : State), Ready h s →
    exec (.pset h pd ra rb c) s = .next (s.setMould h.m.toNat
      (((past h s).setP pd.toNat (condTrue c.toNat ((s.mould h.m.toNat).getX ra.toNat) ((s.mould h.m.toNat).getX rb.toNat))).count
        Reg.CTL_CNT_VIOL (if 10 ≤ c.toNat then 1 else 0)))) ∧
  (∀ (h : Hdr) (pd : BitVec 3) (ra : BitVec 5) (c : BitVec 4) (v : BitVec 32) (s : State), Ready h s →
    exec (.pseti h pd ra c v) s = .next (s.setMould h.m.toNat
      (((past h s).setP pd.toNat (condTrue c.toNat ((s.mould h.m.toNat).getX ra.toNat) (BitVec.ofInt 64 v.toInt))).count
        Reg.CTL_CNT_VIOL (if 10 ≤ c.toNat then 1 else 0)))) ∧
  (∀ (h : Hdr) (pd pa pb : BitVec 3) (tt : BitVec 4) (s : State), Ready h s →
    exec (.plog h pd pa pb tt) s = .next (s.setMould h.m.toNat ((past h s).setP pd.toNat
      (tt.getLsbD (2 * (if (s.mould h.m.toNat).getP pa.toNat then 1 else 0)
        + (if (s.mould h.m.toNat).getP pb.toNat then 1 else 0)))))) ∧
  ∀ (m : Mould) (b : Bool), m.setP 0 b = m ∧ m.getP 0 = true

/-- The low half of a register is a NaN as binary32. -/
def Sys2Proof.Claims.nan32Low (a : W64) : Prop := 0x7F800000 < a.toNat % 2 ^ 31

/-- The low half of a register that is no NaN, as a number in the order of the binary32 values: the magnitude code with the sign; both
zeros give 0. -/
def Sys2Proof.Claims.order32Low (a : W64) : Int := if a.getLsbD 31 then -((a.toNat % 2 ^ 31 : Nat) : Int) else (a.toNat % 2 ^ 31 : Nat)

/-- R206: what each condition code compares. Codes 0x6 to 0x8 compare binary32 values, infinities and both zeros included, and are false on
NaN; code 0x9 is true on NaN; a reserved code is never true. -/
def Sys2Proof.Claims.conditionCodes : Prop :=
  ∀ a b : W64,
    let un := nan32Low a ∨ nan32Low b
    condTrue 0 a b = decide (a = b) ∧ condTrue 1 a b = decide (a ≠ b) ∧
    condTrue 2 a b = decide (a.toInt < b.toInt) ∧ condTrue 3 a b = decide (b.toInt ≤ a.toInt) ∧
    condTrue 4 a b = decide (a.toNat < b.toNat) ∧ condTrue 5 a b = decide (b.toNat ≤ a.toNat) ∧
    (condTrue 6 a b = true ↔ ¬un ∧ order32Low a = order32Low b) ∧ (condTrue 7 a b = true ↔ ¬un ∧ order32Low a < order32Low b) ∧
    (condTrue 8 a b = true ↔ ¬un ∧ order32Low a ≤ order32Low b) ∧ (condTrue 9 a b = true ↔ un) ∧
    ∀ c, 10 ≤ c → condTrue c a b = false

/-- R206, R207: what the predicate instructions write, and what each condition code compares. -/
def Obligations.PredicateInstructions : Prop := Sys2Proof.Claims.predicateResult ∧ Sys2Proof.Claims.conditionCodes

/-- R208: `BR`, `JAL` and `JR`. -/
def Obligations.BranchResult : Prop :=
  (∀ (h : Hdr) (t : BitVec 13) (s : State), Ready h s →
    exec (.br h t) s = .next (s.setMould h.m.toNat { past h s with pc := t })) ∧
  (∀ (h : Hdr) (rd : BitVec 5) (t : BitVec 13) (s : State), Ready h s →
    exec (.jal h rd t) s = .next (s.setMould h.m.toNat
      { (past h s).setX rd.toNat (((s.mould h.m.toNat).pc + 1).setWidth 64) with pc := t })) ∧
  ∀ (h : Hdr) (ra : BitVec 5) (s : State), Ready h s →
    let a := (s.mould h.m.toNat).getX ra.toNat
    exec (.jr h ra) s = .next (s.setMould h.m.toNat
      { (past h s).count Reg.CTL_CNT_VIOL (if 2 ^ 13 ≤ a.toNat then 1 else 0) with pc := a.extractLsb' 0 13 })

/-- R175, R208: a summary register that is not pending is read at once; `BSUM` then branches on its condition. A read of a pending one waits
where it stands. -/
def Sys2Proof.Claims.summaryReadResult : Prop :=
  (∀ (h : Hdr) (rd : BitVec 5) (k : BitVec 3) (s : State), Ready h s →
    (∀ p ∈ (s.mould h.m.toNat).producers, p.k ≠ k.toNat) →
    exec (.sget h rd k) s = .next (s.setMould h.m.toNat ((past h s).setX rd.toNat ((s.mould h.m.toNat).getS k.toNat)))) ∧
  (∀ (h : Hdr) (rd : BitVec 5) (k : BitVec 3) (s : State), Ready h s →
    (∃ p ∈ (s.mould h.m.toNat).producers, p.k = k.toNat) →
    exec (.sget h rd k) s = .next (s.setMould h.m.toNat
      { past h s with wait := .sumGet k.toNat rd, pc := (s.mould h.m.toNat).pc })) ∧
  (∀ (h : Hdr) (k : BitVec 3) (c : BitVec 4) (ra : BitVec 5) (t : BitVec 13) (s : State), Ready h s →
    (∃ p ∈ (s.mould h.m.toNat).producers, p.k = k.toNat) →
    exec (.bsum h k c ra t) s = .next (s.setMould h.m.toNat
      { past h s with wait := .sumBranch k.toNat c.toNat ((s.mould h.m.toNat).getX ra.toNat) t, pc := (s.mould h.m.toNat).pc })) ∧
  ∀ (h : Hdr) (k : BitVec 3) (c : BitVec 4) (ra : BitVec 5) (t : BitVec 13) (s : State), Ready h s →
    (∀ p ∈ (s.mould h.m.toNat).producers, p.k ≠ k.toNat) →
    let yes := condTrue c.toNat ((s.mould h.m.toNat).getS k.toNat) ((s.mould h.m.toNat).getX ra.toNat)
    exec (.bsum h k c ra t) s = .next (s.setMould h.m.toNat
      { (past h s).count Reg.CTL_CNT_VIOL (if 10 ≤ c.toNat then 1 else 0) with
        pc := if yes then t else (s.mould h.m.toNat).pc + 1 })

/-- R175: the post of the latest producer's value sets the register, which is then not pending, and ends the wait of a read of it: `SGET`
takes the value, `BSUM` branches on it. Any other wait stands as it was, and so does everything while the latest producer has no value. -/
def Sys2Proof.Claims.summaryPostEndsWait : Prop :=
  ∀ (g : BitVec 8) (k : BitVec 3) (s : State),
    let m := s.mould g.toNat
    (∀ (v : W64) (n : Nat), m.producers.find? (fun p => p.k == k.toNat) = some ⟨k.toNat, n, some v⟩ →
      ∃ t, exec (.summaryPost g k) s = .next t ∧ (t.mould g.toNat).getS k.toNat = v ∧
        (∀ p ∈ (t.mould g.toNat).producers, p.k ≠ k.toNat) ∧ sameButMould g.toNat s t ∧
        (∀ rd : BitVec 5, m.wait = .sumGet k.toNat rd → (t.mould g.toNat).wait = .none ∧ (t.mould g.toNat).pc = m.pc + 1 ∧
          ∀ r : Nat, (t.mould g.toNat).getX r = if r = rd.toNat ∧ r ≠ 0 then v else m.getX r) ∧
        (∀ (c : Nat) (a : W64) (x : BitVec 13), m.wait = .sumBranch k.toNat c a x → (t.mould g.toNat).wait = .none ∧
          (t.mould g.toNat).pc = (if condTrue c v a then x else m.pc + 1) ∧ (t.mould g.toNat).x = m.x ∧
          (t.mould g.toNat).reg Reg.CTL_CNT_VIOL = m.reg Reg.CTL_CNT_VIOL + (if 10 ≤ c then 1 else 0)) ∧
        ((∀ rd : BitVec 5, m.wait ≠ .sumGet k.toNat rd) → (∀ c a x, m.wait ≠ .sumBranch k.toNat c a x) →
          (t.mould g.toNat).wait = m.wait ∧ (t.mould g.toNat).pc = m.pc ∧ (t.mould g.toNat).x = m.x)) ∧
    ((∀ p ∈ m.producers.find? (fun p => p.k == k.toNat), p.val = none) →
      ∃ t, exec (.summaryPost g k) s = .next t ∧ t.mould g.toNat = m ∧ sameButMould g.toNat s t)

/-- R175, R208: reads of summary registers that have posted, and of one that is pending. -/
def Obligations.SummaryReads : Prop := Sys2Proof.Claims.summaryReadResult ∧ Sys2Proof.Claims.summaryPostEndsWait

/-- R169, R209: a load of n bytes, little-endian, sign-extended or not; a misaligned or outlying access loads 0 and is counted
once. -/
def Obligations.LoadResult : Prop :=
  ∀ p ∈ loadOps, ∀ (h : Hdr) (o : ImmOps) (s : State), Ready h s →
    let m := s.mould h.m.toNat
    let n := p.2.1
    let a := (BitVec.ofInt 64 ((m.getX o.ra.toNat).toNat + o.imm.toInt)).toNat
    let v := dataNat m a n
    exec (p.1 h o) s = .next (s.setMould h.m.toNat
      (if a % n = 0 ∧ a < 0x10000 then
        (past h s).setX o.rd.toNat (BitVec.ofInt 64
          (if p.2.2 = true ∧ 256 ^ n ≤ 2 * v then (v : Int) - (256 ^ n : Nat) else v))
      else ((past h s).setX o.rd.toNat 0).count Reg.CTL_CNT_VIOL 1))

/-- R169, R209: a store writes the low n bytes of the register at n bytes from its address and no other byte; a misaligned or
outlying one stores nothing and is counted once. -/
def Obligations.StoreResult : Prop :=
  ∀ p ∈ storeOps, ∀ (h : Hdr) (o : ImmOps) (s : State), Ready h s →
    let m := s.mould h.m.toNat
    let n := p.2
    let a := (BitVec.ofInt 64 ((m.getX o.ra.toNat).toNat + o.imm.toInt)).toNat
    ∃ t, exec (p.1 h o) s = .next t ∧ sameButMould h.m.toNat s t ∧
      (t.mould h.m.toNat).x = m.x ∧ (t.mould h.m.toNat).p = m.p ∧ (t.mould h.m.toNat).d = m.d ∧
      (t.mould h.m.toNat).ocache = m.ocache ∧ (t.mould h.m.toNat).pc = m.pc + 1 ∧
      if a % n = 0 ∧ a < 0x10000 then
        (∀ i, i < n → (t.mould h.m.toNat).dmem.get (a + i) = BitVec.ofNat 8 ((m.getX o.rd.toNat).toNat / 256 ^ i)) ∧
        (∀ b, b < a ∨ a + n ≤ b → (t.mould h.m.toNat).dmem.get b = m.dmem.get b) ∧
        (t.mould h.m.toNat).reg Reg.CTL_CNT_VIOL = (past h s).reg Reg.CTL_CNT_VIOL
      else (t.mould h.m.toNat).dmem = m.dmem ∧
        (t.mould h.m.toNat).reg Reg.CTL_CNT_VIOL = (past h s).reg Reg.CTL_CNT_VIOL + 1

/-- R209, R210: `MRLD` reads a register of the mould's own space, `MRST` writes one; at an address that is not a multiple of 8,
or 0x1000 or above, `MRLD` reads 0 and `MRST` writes nothing, counted once. -/
def Sys2Proof.Claims.registerSpaceAccess : Prop :=
  ∀ (h : Hdr) (o : ImmOps) (s : State), Ready h s →
    let g := h.m.toNat
    let a := (BitVec.ofInt 64 (((s.mould g).getX o.ra.toNat).toNat + o.imm.toInt)).toNat
    let u := s.setMould g (past h s)
    let ok := a % 8 = 0 ∧ a < 0x1000
    (exec (.mrld h o) s = .next (s.setMould g
      (if ok then (past h s).setX o.rd.toNat (mouldView u g a)
       else ((past h s).setX o.rd.toNat 0).count Reg.CTL_CNT_VIOL 1))) ∧
    exec (.mrst h o) s = .next
      (if ok then mouldWrite u g a ((s.mould g).getX o.rd.toNat)
       else s.setMould g ((past h s).count Reg.CTL_CNT_VIOL 1))

/-- R209, R263: `LDOC` reads eight bytes of the operand cache; at a bad offset, or in the term log, it reads 0, counted
once. -/
def Sys2Proof.Claims.operandCacheLoad : Prop :=
  ∀ (h : Hdr) (o : ImmOps) (s : State), Ready h s →
    let m := s.mould h.m.toNat
    let a := (BitVec.ofInt 64 ((m.getX o.ra.toNat).toNat + o.imm.toInt)).toNat
    exec (.ldoc h o) s = .next (s.setMould h.m.toNat
      (if a % 8 = 0 ∧ a ≤ 0x180000 - 8 ∧ m.inTlog a 8 = false then
        (past h s).setX o.rd.toNat (BitVec.ofNat 64 (leNat (m.ocache.gets a 8)))
      else ((past h s).setX o.rd.toNat 0).count Reg.CTL_CNT_VIOL 1))

/-- R209, R210, R263: `MRLD`, `MRST` and `LDOC`. -/
def Obligations.RegisterAndOperandCacheAccess : Prop := Sys2Proof.Claims.registerSpaceAccess ∧ Sys2Proof.Claims.operandCacheLoad

/-! ## Descriptors -/

/-- R213, R214: what each descriptor instruction writes into `DD` or memory. A created image is validated (R80), and each
non-zero field that R73 ignores is counted once. -/
def Sys2Proof.Claims.descriptorResult : Prop :=
  ∀ (h : Hdr) (o : DescOps) (s : State), Ready h s →
    let m := s.mould h.m.toNat
    let u := s.setMould h.m.toNat (past h s)
    let a := (BitVec.ofInt 64 ((m.getX o.ra.toNat).toNat + o.imm.toInt)).toNat
    let x := m.getX o.ra.toNat
    let src := supplied (m.getD o.da.toNat)
    let made (d : W512) : State := s.setMould h.m.toNat
      (((past h s).setD o.dd.toNat (validateImage u d).1).count Reg.CTL_CNT_VIOL (validateImage u d).2)
    exec (.dmk h o) s = .next (if a % 64 = 0 ∧ a < 0x10000 then made (BitVec.ofNat 512 (leNat (m.dmem.gets a 64)))
      else s.setMould h.m.toNat (((past h s).setD o.dd.toNat 0xF000000001000000).count Reg.CTL_CNT_VIOL 1)) ∧
    exec (.dcopy h o) s = .next (s.setMould h.m.toNat ((past h s).setD o.dd.toNat (m.getD o.da.toNat))) ∧
    exec (.dext h o) s = .next (if o.imm.toNat % 8 < 6 then made (imgSetExt src (o.imm.toNat % 8) (x.toNat % 2 ^ 32))
      else s.setMould h.m.toNat (((past h s).setD o.dd.toNat (m.getD o.da.toNat)).count Reg.CTL_CNT_VIOL 1)) ∧
    exec (.dtid h o) s = .next (made (imgSet src 0 23 0 (x.toNat % 2 ^ 24))) ∧
    let b := (imgBase (m.getD o.da.toNat) : Int) + 64 * x.toInt
    (0 ≤ b → b < 2 ^ 48 → exec (.doff h o) s = .next (made (imgSet src 1 47 0 b.toNat))) ∧
    (b < 0 ∨ 2 ^ 48 ≤ b → ∃ d, exec (.doff h o) s = .next (s.setMould h.m.toNat ((past h s).setD o.dd.toNat d)) ∧
      viewOf d = none ∧ imgFld d 0 31 24 = 0x09)

/-- R213, R214: `DSAVE` stores the 64 bytes of the image, lowest first, and nothing else; at a bad address nothing, counted
once. -/
def Sys2Proof.Claims.descriptorSaveResult : Prop :=
  ∀ (h : Hdr) (o : DescOps) (s : State), Ready h s →
    let m := s.mould h.m.toNat
    let a := (BitVec.ofInt 64 ((m.getX o.ra.toNat).toNat + o.imm.toInt)).toNat
    ∃ t, exec (.dsave h o) s = .next t ∧ sameButMould h.m.toNat s t ∧
      (t.mould h.m.toNat).x = m.x ∧ (t.mould h.m.toNat).d = m.d ∧ (t.mould h.m.toNat).pc = m.pc + 1 ∧
      if a % 64 = 0 ∧ a < 0x10000 then
        (∀ i, i < 64 → (t.mould h.m.toNat).dmem.get (a + i) = BitVec.ofNat 8 ((m.getD o.da.toNat).toNat / 256 ^ i)) ∧
        ∀ b, b < a ∨ a + 64 ≤ b → (t.mould h.m.toNat).dmem.get b = m.dmem.get b
      else (t.mould h.m.toNat).dmem = m.dmem ∧
        (t.mould h.m.toNat).reg Reg.CTL_CNT_VIOL = (past h s).reg Reg.CTL_CNT_VIOL + 1

/-- R73, R213, R214: the six descriptor instructions. -/
def Obligations.DescriptorInstructions : Prop := Sys2Proof.Claims.descriptorResult ∧ Sys2Proof.Claims.descriptorSaveResult

/-- R71, R80: an image that validates holds no void cause, a rank from 1 to 6, a base that is a multiple of 64, extents from 1
up with a product of at most 2⁴⁰, and a `TID` below 2²². -/
def Obligations.ValidDescriptorShape : Prop :=
  ∀ (s : State) (d : W512) (v : View), viewOf (validateImage s d).1 = some v →
    imgFld (validateImage s d).1 0 31 24 = 0 ∧ 1 ≤ imgFld d 0 59 57 ∧ imgFld d 0 59 57 ≤ 6 ∧ v.base % 64 = 0 ∧
    (∀ e ∈ v.ext, 0 < e) ∧ v.ext.length = 6 ∧ product v.ext ≤ 2 ^ 40 ∧ v.tid < 2 ^ 22

/-- R75 to R77, R80: every byte that an element of a validated local dense or planar descriptor uses, its data and its block
scale, lies within the allocated region that the descriptor names. -/
def Obligations.ValidElementsLieInRegion : Prop :=
  ∀ (s : State) (d : W512) (v : View), viewOf (validateImage s d).1 = some v → v.layout ≠ .sparse → v.dev = s.devAddr →
    s.rgnAlloc v.region = true ∧
    ∀ (i : Nat) (o : List Nat), v.inShape i o = true →
      (∀ a ∈ v.elemBytes i o, s.rgnBase v.region ≤ a ∧ a < s.rgnLimit v.region) ∧
      (v.blk ≠ 0 → s.rgnBase v.region ≤ v.scaleAddr o (i / v.blk) ∧ v.scaleAddr o (i / v.blk) < s.rgnLimit v.region)

/-! ## Synchronisation and heats -/

/-- R201, R224: a reserved word only counts once; `CNT` writes the system counter. -/
def Sys2Proof.Claims.reservedAndCounterResult : Prop :=
  (∀ (h : Hdr) (s : State), Ready h s →
    exec (.reservedOpcode h) s = .next (s.setMould h.m.toNat ((s.mould h.m.toNat).advance.count Reg.CTL_CNT_VIOL 1))) ∧
  ∀ (h : Hdr) (rd : BitVec 5) (s : State), Ready h s →
    exec (.cnt h rd) s = .next (s.setMould h.m.toNat ((past h s).setX rd.toNat s.cnt))

/-- R227, R228: with no product, move or riser command outstanding `CHKST` writes the retries of the heat; `CHKINJ` arms one
mismatch while `INJ_EN` is set, and otherwise, or with `SEL` 3, counts once and does nothing. -/
def Sys2Proof.Claims.checkInstructionsResult : Prop :=
  (∀ (h : Hdr) (rd : BitVec 5) (s : State), InHeat h s →
    (s.mould h.m.toNat).queue 0 = [] → (s.mould h.m.toNat).queue 3 = [] → (s.mould h.m.toNat).queue 5 = [] →
    exec (.chkst h rd) s = .next (s.setMould h.m.toNat
      ((past h s).setX rd.toNat (BitVec.ofNat 64 (s.mould h.m.toNat).retries)))) ∧
  ∀ (h : Hdr) (sel : BitVec 2) (s : State), InHeat h s →
    exec (.chkinj h sel) s = .next (s.setMould h.m.toNat
      (if ((s.mould h.m.toNat).reg Reg.MID_TEST).getLsbD 0 = true ∧ sel ≠ 3 then
        { past h s with inj := (s.mould h.m.toNat).inj ++ [sel.toNat] }
      else (past h s).count Reg.CTL_CNT_VIOL 1))

/-- R201, R224, R227, R228: reserved words, `CNT`, `CHKST`, `CHKINJ`. -/
def Obligations.CheckAndCounterInstructions : Prop := Sys2Proof.Claims.reservedAndCounterResult ∧ Sys2Proof.Claims.checkInstructionsResult

/-- R223, R275: `HWAIT` gives the heat number at once in `RUNNING`; a launch that has reached the mould makes the state `RUNNING` and
gives its number, after a flask split that waits for its crucible has taken effect; with neither the pair waits, its PC at the `HWAIT`. -/
def Sys2Proof.Claims.heatWaitResult : Prop :=
  ∀ (h : Hdr) (rd : BitVec 5) (s : State), Ready h s →
    let m := s.mould h.m.toNat
    (m.reg Reg.MID_HEAT_STATE = 1 →
      exec (.hwait h rd) s = .next (s.setMould h.m.toNat ((past h s).setX rd.toNat (m.reg Reg.MID_HEAT)))) ∧
    (∀ n, m.reg Reg.MID_HEAT_STATE ≠ 1 → m.launched = some n → ∃ t, exec (.hwait h rd) s = .next t ∧
      (bitOf (s.reg (Reg.MEM_FLASK_SPLIT + 8 * (h.m.toNat / 64))) 16 = false → sameButMould h.m.toNat s t) ∧
      ((∀ j, 64 * (h.m.toNat / 64) ≤ j → j < 64 * (h.m.toNat / 64) + 64 → (s.mould j).reg Reg.MID_HEAT_STATE ≠ 1) →
        bitOf (t.reg (Reg.MEM_FLASK_SPLIT + 8 * (h.m.toNat / 64))) 16 = false) ∧ (t.mould h.m.toNat).reg Reg.MID_HEAT_STATE = 1 ∧
      (t.mould h.m.toNat).reg Reg.MID_HEAT = BitVec.ofNat 64 n ∧
      (rd ≠ 0 → (t.mould h.m.toNat).getX rd.toNat = BitVec.ofNat 64 n) ∧ (t.mould h.m.toNat).pc = m.pc + 1) ∧
    (m.reg Reg.MID_HEAT_STATE ≠ 1 → m.launched = none → ∃ t, exec (.hwait h rd) s = .next t ∧ sameButMould h.m.toNat s t ∧
      (t.mould h.m.toNat).wait = .hwait rd ∧ (t.mould h.m.toNat).pc = m.pc ∧ (t.mould h.m.toNat).x = m.x)

/-- R223, R387: with all six queues empty `HEND` retires at once, the heat state is `ENDED`, and a checkpoint is captured. -/
def Sys2Proof.Claims.heatEndResult : Prop :=
  ∀ (h : Hdr) (s : State), Ready h s → (s.mould h.m.toNat).drained = true →
    s.mstate h.m.toNat ≠ Svc.draining → s.mstate h.m.toNat ≠ Svc.pendingEnable →
    ∃ t, exec (.hend h) s = .next t ∧ sameButMould h.m.toNat s t ∧
      (t.mould h.m.toNat).reg Reg.MID_HEAT_STATE = 2 ∧ (t.mould h.m.toNat).wait = .none ∧
      (t.mould h.m.toNat).pc = (s.mould h.m.toNat).pc + 1 ∧ (t.mould h.m.toNat).x = (s.mould h.m.toNat).x ∧
      ∃ c, (t.mould h.m.toNat).ckpt = some c ∧ c.heatState = 2 ∧ c.x = (s.mould h.m.toNat).x ∧
        c.dmem = (s.mould h.m.toNat).dmem ∧ c.pc = (s.mould h.m.toNat).pc + 1

/-- R223, R387: `HWAIT` and `HEND`. -/
def Obligations.HeatInstructions : Prop := Sys2Proof.Claims.heatWaitResult ∧ Sys2Proof.Claims.heatEndResult

/-- R221: a `FENCE` whose queues are empty retires; otherwise the pair waits at it, and it retires when they are. -/
def Obligations.FenceResult : Prop :=
  (∀ (h : Hdr) (q : BitVec 6) (s : State), InHeat h s →
    ((∀ k, k < 6 → q.getLsbD k = true → (s.mould h.m.toNat).queue k = []) →
      exec (.fence h q) s = .next (s.setMould h.m.toNat (past h s))) ∧
    ((∃ k, k < 6 ∧ q.getLsbD k = true ∧ (s.mould h.m.toNat).queue k ≠ []) →
      exec (.fence h q) s = .next (s.setMould h.m.toNat
        { past h s with wait := .fence q, pc := (s.mould h.m.toNat).pc }))) ∧
  ∀ (g : BitVec 8) (q : BitVec 6) (s : State), (s.mould g.toNat).wait = .fence q → (s.mould g.toNat).stopped = false →
    (∀ k, k < 6 → q.getLsbD k = true → (s.mould g.toNat).queue k = []) →
    exec (.fenceRelease g) s = .next (s.setMould g.toNat
      { s.mould g.toNat with wait := .none, pc := (s.mould g.toNat).pc + 1 })

/-- R222: with its queues empty a pair arrives under its own index and waits; the first arrival sets the participant count. -/
def Sys2Proof.Claims.barrierArrivalResult : Prop :=
  ∀ (h : Hdr) (bid : BitVec 4) (device : Bool) (ra : BitVec 5) (s : State), InHeat h s →
    (s.mould h.m.toNat).drained = true →
    let g := h.m.toNat
    let c := if device then 0 else g / 64
    let b := s.getBarrier device c bid.toNat
    let n := ((s.mould g).getX ra.toNat).toNat
    SMap.get 0 (s.mould g).arrivals (16 * (if device then 1 else 0) + bid.toNat) = SMap.get 0 b.taken g →
    b.arrived = [] → 1 < n → n ≤ (if device then 256 else 64) →
    ∃ t, exec (.barrier h bid device ra) s = .next t ∧
      (t.mould g).wait = .barrier device bid.toNat (BitVec.ofNat 64 n) true ∧ (t.mould g).pc = (s.mould g).pc ∧
      (t.getBarrier device c bid.toNat).arrived = [g] ∧ (t.getBarrier device c bid.toNat).count = n ∧
      (t.getBarrier device c bid.toNat).generation = b.generation ∧ (∀ j, j ≠ g → t.mould j = s.mould j) ∧ t.mem = s.mem

/-- R222: the arrival that completes the count advances the generation and is due for release with the others; the release lets
every pair of that generation go on past its `BARRIER`. -/
def Sys2Proof.Claims.barrierRelease : Prop :=
  (∀ (b : Barrier) (g n : Nat), b.arrived ≠ [] → b.arrived.length + 1 = b.count →
    (b.arrive g n).1.generation = b.generation + 1 ∧ (b.arrive g n).1.arrived = [] ∧
      (b.arrive g n).1.done = b.done ++ (b.arrived ++ [g]) ∧ (b.arrive g n).1.count = b.count) ∧
  ∀ (device : Bool) (c : BitVec 2) (bid : BitVec 4) (s : State),
    let k := if device then 0 else c.toNat
    let b := s.getBarrier device k bid.toNat
    b.done ≠ [] → b.done.Nodup →
    (∀ g ∈ b.done, ∃ n, (s.mould g).wait = .barrier device bid.toNat n true) →
    ∃ t, exec (.barrierRelease device c bid) s = .next t ∧ (t.getBarrier device k bid.toNat).done = [] ∧
      (∀ g ∈ b.done, (t.mould g).wait = .none ∧ (t.mould g).pc = (s.mould g).pc + 1) ∧
      (∀ g, g ∉ b.done → t.mould g = s.mould g) ∧ t.mem = s.mem

/-- R222: an arrival at a barrier, and the release of its generation. -/
def Obligations.BarrierInstructions : Prop := Sys2Proof.Claims.barrierArrivalResult ∧ Sys2Proof.Claims.barrierRelease

/-- R220: a valid `QSIG` or `QWAIT` enters its queue and marks or consumes its token; an invalid one is counted once and enters
nothing. -/
def Sys2Proof.Claims.queueTokenIssue : Prop :=
  ∀ (h : Hdr) (q : BitVec 3) (tk : BitVec 4) (s : State), InHeat h s →
    let m := s.mould h.m.toNat
    let bit : W16 := BitVec.ofNat 16 (2 ^ tk.toNat)
    let bad : State := s.setMould h.m.toNat ((past h s).count Reg.CTL_CNT_VIOL 1)
    let put (e : QEnt) (iss : W16) : State := s.setMould h.m.toNat
      { past h s with tokIssued := iss, queues := SMap.set [] m.queues q.toNat (m.queue q.toNat ++ [e]) }
    ((5 < q.toNat ∨ m.tokIssued.getLsbD tk.toNat = true) → exec (.qsig h q tk) s = .next bad) ∧
    ((5 < q.toNat ∨ m.tokIssued.getLsbD tk.toNat = false) → exec (.qwait h q tk) s = .next bad) ∧
    (q.toNat ≤ 5 → (m.queue q.toNat).length < qDepth q.toNat →
      (m.tokIssued.getLsbD tk.toNat = false → exec (.qsig h q tk) s = .next (put (.sig tk.toNat) (m.tokIssued ||| bit))) ∧
      (m.tokIssued.getLsbD tk.toNat = true → exec (.qwait h q tk) s = .next (put (.wait tk.toNat) (m.tokIssued &&& ~~~bit))))

/-- R220: a `QSIG` at the head of its queue signals its token and leaves; a `QWAIT` there leaves once its token is signalled and
clears it. A signal that finds its token signalled stands until a later `QWAIT` of the token. What the queues hold behind them may then
run. -/
def Sys2Proof.Claims.queueTokenEffect : Prop :=
  (∀ (g : BitVec 8) (tk : BitVec 4) (q : Nat) (s : State), q < 6 → (s.mould g.toNat).stopped = false →
    ((s.mould g.toNat).queue q).head? = some (.sig tk.toNat) →
    (∀ k, k < q → ((s.mould g.toNat).queue k).head? ≠ some (.sig tk.toNat)) →
    exec (.tokenSignal g tk) s = .next (settle ((s.popHead g.toNat q).updMould g.toNat fun m =>
      if m.tokSignalled.getLsbD tk.toNat then { m with tokMore := tk.toNat :: m.tokMore }
      else { m with tokSignalled := m.tokSignalled ||| BitVec.ofNat 16 (2 ^ tk.toNat) }))) ∧
  ∀ (g : BitVec 8) (q : BitVec 3) (t : Nat) (r : List QEnt) (s : State), (s.mould g.toNat).stopped = false →
    (s.mould g.toNat).queue q.toNat = .wait t :: r → (s.mould g.toNat).tokSignalled.getLsbD t = true →
    exec (.qwaitRelease g q) s = .next (settle ((s.popHead g.toNat q.toNat).updMould g.toNat fun m =>
      if t ∈ m.tokMore then { m with tokMore := m.tokMore.erase t }
      else { m with tokSignalled := m.tokSignalled &&& ~~~(BitVec.ofNat 16 (2 ^ t)) }))

/-- R220: `QSIG` and `QWAIT` from issue to the end of their wait. -/
def Obligations.QueueTokens : Prop := Sys2Proof.Claims.queueTokenIssue ∧ Sys2Proof.Claims.queueTokenEffect

/-! ## Queued instructions -/

/-- R172, R173: a queued instruction captures its operands and enters its queue; whatever can run then runs. -/
def Sys2Proof.Claims.queuedInstructionIssues : Prop :=
  ∀ (i : Instr) (h : Hdr) (q : Nat) (w : State → Work) (s : State), captured s i = some (h, q, w) → InHeat h s →
    ((s.mould h.m.toNat).queue q).length < qDepth q → exec i s = .next (settle (entered h s q w))

/-- R175: an instruction that names a summary register marks it pending as it enters its queue; it is then the latest producer,
and every other register is pending as before. -/
def Sys2Proof.Claims.summaryPendingAtIssue : Prop :=
  ∀ (s : State) (g q k : Nat) (w : Work), w.sk (s.mould g) = some k →
    (∀ kind o ds dd de ok n r, w ≠ .coll kind o ds dd de ok n r) →
    let t := (s.enqueue g q w).mould g
    t.producers.find? (fun p => p.k == k) = some ⟨k, (s.mould g).ser + 1, none⟩ ∧
    (∀ j, j ≠ k → t.producers.filter (fun p => p.k == j) = (s.mould g).producers.filter (fun p => p.k == j)) ∧
    (t.queue q).length = ((s.mould g).queue q).length + 1

/-- R172, R173, R175: a queued instruction with room in its queue enters it, and its summary register is pending. -/
def Obligations.QueuedInstructionIssues : Prop := Sys2Proof.Claims.queuedInstructionIssues ∧ Sys2Proof.Claims.summaryPendingAtIssue

/-- R73, R173, R223: with its queue full the pair waits in the issue stage with the instruction, its operands captured, its PC at it, and
nothing enters; outside a heat, with no launch at the mould, it waits likewise. -/
def Sys2Proof.Claims.queuedInstructionWaits : Prop :=
  ∀ (i : Instr) (h : Hdr) (q : Nat) (w : State → Work) (s : State), captured s i = some (h, q, w) →
    (InHeat h s → qDepth q ≤ ((s.mould h.m.toNat).queue q).length → exec i s = .next (settle (s.setMould h.m.toNat
      { past h s with wait := .room q (.work 0 (w (s.setMould h.m.toNat (past h s)))), pc := (s.mould h.m.toNat).pc }))) ∧
    (Ready h s → (s.mould h.m.toNat).reg Reg.MID_HEAT_STATE ≠ 1 → (s.mould h.m.toNat).launched = none →
      exec i s = .next (settle (s.setMould h.m.toNat { s.mould h.m.toNat with wait := .heat i })))

/-- R173: once its queue has room the waiting instruction enters it and the pair goes on. -/
def Sys2Proof.Claims.queueRoomResult : Prop :=
  ∀ (g : BitVec 8) (q : Nat) (e : QEnt) (s : State), (s.mould g.toNat).wait = .room q e →
    ((s.mould g.toNat).queue q).length < qDepth q →
    exec (.queueRoom g) s = .next (settle ((s.setMould g.toNat
      { s.mould g.toNat with wait := .none, pc := (s.mould g.toNat).pc + 1 }).enqueueEnt g.toNat q e))

/-- R173, R223: when a queued instruction waits, and what ends the wait for room. -/
def Obligations.QueuedInstructionWaits : Prop := Sys2Proof.Claims.queuedInstructionWaits ∧ Sys2Proof.Claims.queueRoomResult

/-- R17, R219: when from a state only one thing can run at a time, settling runs them in turn until nothing can. -/
def Obligations.SettleFollowsChain : Prop :=
  ∀ (xs : List Site) (u v : State), Chain xs u v → u.heats.endWait = [] → xs.length ≤ 4 * u.queued + 3 → settle u = v

/-- R215 to R217, R225, R226: `MOVE`, `MFILL` and `DIGEST` run in the memory-move queue and retire. -/
def Sys2Proof.Claims.memoryMovesComplete : Prop :=
  (∀ (h : Hdr) (o : MoveOps) (s : State),
    let dd := (s.mould h.m.toNat).getD o.dd.toNat
    let da := (s.mould h.m.toNat).getD o.da.toNat
    let w : State → Work := fun _ => .move o dd da
    let t := (runMove (entered h s 3 w) h.m.toNat o dd da).popHead h.m.toNat 3
    alone h 3 w s t → exec (.move h o) s = .next t) ∧
  (∀ (h : Hdr) (o : MoveOps) (s : State),
    let dd := (s.mould h.m.toNat).getD o.dd.toNat
    let a := (s.mould h.m.toNat).getX o.ra.toNat
    let w : State → Work := fun _ => .mfill o dd a
    let t := (runMfill (entered h s 3 w) h.m.toNat o dd a).popHead h.m.toNat 3
    alone h 3 w s t → exec (.mfill h o) s = .next t) ∧
  ∀ (h : Hdr) (da : BitVec 6) (ra : BitVec 5) (r : Bool) (l : BitVec 16) (s : State),
    let d := (s.mould h.m.toNat).getD da.toNat
    let a := (s.mould h.m.toNat).getX ra.toNat
    let w : State → Work := fun _ => .digest d a r l
    let t := (runDigest (entered h s 3 w) h.m.toNat d a r l).popHead h.m.toNat 3
    alone h 3 w s t → exec (.digest h da ra r l) s = .next t

/-- R226: a `DIGEST` of a valid local tensor with an address that is a multiple of 16 stores the digest, least significant byte
first, and no other byte of data memory; with `REC` it enters the label and the digest, at most 64 times. -/
def Sys2Proof.Claims.digestResult : Prop :=
  ∀ (s : State) (g : Nat) (da : W512) (v : View) (a : W64) (r : Bool) (l : W16), viewOf da = some v → v.dev = s.devAddr →
    a.toNat % 16 = 0 → a.toNat + 16 ≤ 0x10000 →
    let t := runDigest s g da a r l
    (∀ i, i < 16 → (t.mould g).dmem.get (a.toNat + i) = BitVec.ofNat 8 ((v.digest s g).toNat / 256 ^ i)) ∧
    (∀ b, b < a.toNat ∨ a.toNat + 16 ≤ b → (t.mould g).dmem.get b = (s.mould g).dmem.get b) ∧
    (t.mould g).digests = (s.mould g).digests ++
      (if r = true ∧ (s.mould g).digests.length < 64 then [(l.toNat, v.digest s g)] else []) ∧ t.mem = s.mem ∧
    (t.mould g).ocache = (s.mould g).ocache ∧ ∀ j, j ≠ g → t.mould j = s.mould j

/-- R215 to R217, R225, R226: the memory-move queue. -/
def Obligations.MemoryMoves : Prop := Sys2Proof.Claims.memoryMovesComplete ∧ Sys2Proof.Claims.digestResult

/-- R216, R217: a `MOVE` whose extents differ, or between a sparse descriptor and one that is not, writes nothing and is counted
once. -/
def Sys2Proof.Claims.moveMismatchWritesNothing : Prop :=
  ∀ (s : State) (g : Nat) (o : MoveOps) (dd da : W512) (vs vd : View), viewOf da = some vs → viewOf dd = some vd → o.rm ≠ 3 →
    (vs.ext ≠ vd.ext ∨ ¬(vs.layout = .sparse ↔ vd.layout = .sparse)) →
    runMove s g o dd da = s.mcount g Reg.MOVQ_CNT_VIOL 1

/-- R75 to R78, R217: `MOVE` and `MFILL` through dense or planar descriptors change no byte of memory but those that the
destination's elements occupy, and no register but counts. -/
def Sys2Proof.Claims.moveStoresOnlyDestination : Prop :=
  ∀ (s : State) (g : Nat) (o : MoveOps) (dd da : W512) (x : W64) (v : View), viewOf dd = some v → v.layout ≠ .sparse →
    ∀ t ∈ [runMove s g o dd da, runMfill s g o dd x],
      (∀ (j a : Nat), ¬ holds v a → t.byteAt j a = s.byteAt j a) ∧
      (∀ off, off ≠ Reg.MEM_CNT_RMW → t.reg off = s.reg off) ∧
      (∀ j, (t.mould j).x = (s.mould j).x ∧ (t.mould j).d = (s.mould j).d ∧ (t.mould j).acc = (s.mould j).acc ∧
        (t.mould j).queues = (s.mould j).queues ∧ (t.mould j).rows = (s.mould j).rows ∧ (t.mould j).pc = (s.mould j).pc) ∧
      t.barriers = s.barriers ∧ t.risers = s.risers ∧ t.host = s.host ∧ t.heats = s.heats ∧ t.pwr = s.pwr ∧ t.pending = s.pending

/-- R75 to R78, R216, R217: what a `MOVE` or `MFILL` leaves unchanged. -/
def Obligations.MoveFrame : Prop := Sys2Proof.Claims.moveMismatchWritesNothing ∧ Sys2Proof.Claims.moveStoresOnlyDestination

/-- R41 to R43, R75: codes stored into one run of a dense or planar tensor without scales or bitmap read back, through a view of the top
`planes` planes with the low bits clear, and the run's other elements read as before. -/
def Obligations.RunStoreReadsBack : Prop :=
  ∀ (s : State) (g : Nat) (v : View) (o : List Nat) (cs : List (Nat × Nat)), v.layout ≠ .sparse → v.blk = 0 → v.zbm = false →
    v.dev = s.devAddr → (v.layout = .dense → v.fmt.width % 8 = 0) → (v.gsize = 512 ∨ v.gsize = 4096) →
    (cs.map (·.1)).Nodup → (∀ c ∈ cs, c.1 < v.e 0 ∧ c.2 < 2 ^ v.fmt.width) →
    (∃ k, ∀ i, i < v.e 0 → ∀ a ∈ v.elemBytes i o, windowOf a = some k ∧ s.inTlog g a = false) →
    let t := v.putCodes s g o cs [] []
    (∀ c ∈ cs, v.code t g c.1 o = if v.layout = .planar then truncPlanes v.fmt.width v.planes c.2 else c.2) ∧
    ∀ i, i < v.e 0 → (∀ c ∈ cs, c.1 ≠ i) → v.code t g i o = v.code s g i o

/-- R218, R230 to R240: `TBLOAD`, the five products, `ACCWR` and `ACCLD` run in the matrix queue and retire. -/
def Obligations.MatrixInstructionsComplete : Prop :=
  (∀ (h : Hdr) (o : MoveOps) (s : State),
    let da := (s.mould h.m.toNat).getD o.da.toNat
    let a := (s.mould h.m.toNat).getX o.ra.toNat
    let b := (s.mould h.m.toNat).getX o.rb.toNat
    let w : State → Work := fun _ => .tbload o da a b
    let t := (runTbload (entered h s 0 w) h.m.toNat o da a b).popHead h.m.toNat 0
    alone h 0 w s t → exec (.tbload h o) s = .next t) ∧
  (∀ (k : ProdKind) (h : Hdr) (o : ProdOps) (s : State),
    let n := match k with
      | .spout => normSpout o
      | .sprobe => normSprobe o
      | _ => normInner o
    let h' := hdrAlso h (o != n)
    let d (r : BitVec 6) := (s.mould h.m.toNat).getD r.toNat
    let x (r : BitVec 5) := (s.mould h.m.toNat).getX r.toNat
    let w : State → Work := fun _ => .product k n (d n.dw) (d n.dout) (d n.df) (x n.ra) (x n.rb) none
    let u := entered h' s 0 w
    let coll := if n.disp = 3 then (s.setMould h.m.toNat (past h' s)).exportTarget h.m.toNat (imgTid (d n.dout)) else none
    ∀ v, runProduct u h.m.toNat k n (d n.dw) (d n.dout) (d n.df) (x n.ra) (x n.rb) coll = .done v →
      alone h' 0 w s (v.popHead h.m.toNat 0) →
      exec (match k with
        | .spmm => .spmm h o
        | .spmmt => .spmmt h o
        | .spout => .spout h o
        | .sprobe => .sprobe h o
        | .dmm => .dmm h o) s = .next (v.popHead h.m.toNat 0)) ∧
  ∀ (h : Hdr) (o : ProdOps) (s : State),
    let d (r : BitVec 6) := (s.mould h.m.toNat).getD r.toNat
    let x (r : BitVec 5) := (s.mould h.m.toNat).getX r.toNat
    (let n := normAccwr o
     let h' := hdrAlso h (o != n)
     let w : State → Work := fun _ => .accwr n (d n.dout) (d n.df) (x n.rb) none
     let coll := if n.disp = 3 then (s.setMould h.m.toNat (past h' s)).exportTarget h.m.toNat (imgTid (d n.dout)) else none
     ∀ v, runAccwr (entered h' s 0 w) h.m.toNat n (d n.dout) (d n.df) (x n.rb) coll = .done v →
       alone h' 0 w s (v.popHead h.m.toNat 0) → exec (.accwr h o) s = .next (v.popHead h.m.toNat 0)) ∧
    (let n := normAccld o
     let h' := hdrAlso h (o != n)
     let w : State → Work := fun _ => .accld n (d n.dw) (x n.rb)
     ∀ v, runAccld (entered h' s 0 w) h.m.toNat n (d n.dw) (x n.rb) = .done v →
       alone h' 0 w s (v.popHead h.m.toNat 0) → exec (.accld h o) s = .next (v.popHead h.m.toNat 0))

/-- R57, R58, R120: closing an open tile makes each element the combination of its terms, +0 where it has none, and the tile
closed; a closed or queued tile stays as it is. -/
def Sys2Proof.Claims.closeCombinesTerms : Prop :=
  ∀ (m : Mould) (seed : W64) (t : Nat) (o : OpenSum),
    ((m.getAcc t).st ≠ .opened → m.closeTile seed t = m) ∧
    ((m.getAcc t).st = .opened → (m.getAcc t).sum = some o →
      ((m.closeTile seed t).getAcc t).st = .closed ∧
      (∀ e, e < 4096 → SMap.get 0 ((m.closeTile seed t).getAcc t).vals e =
        (RefSum.combine ⟨.rne, if o.wrs then .sr else .rne, ⟨seed, o.heat, o.tid⟩, o.nmap.index e⟩
          (RefSum.ofBits (o.terms.filterMap fun x =>
            if SMap.get 0 x.2 e = 0 then none else some (x.1, SMap.get 0 x.2 e)))).1) ∧
      ∀ u, u ≠ t → (m.closeTile seed t).getAcc u = m.getAcc u)

/-- R58, R117: a product that would add to an open sum of another tensor, origin, class or mode, or that does not start on a segment,
leaves the tile as it is and is counted; one with `ADD` = 0 opens the tile with its own terms only. -/
def Sys2Proof.Claims.accumulateOpensOrAdds : Prop :=
  ∀ (m : Mould) (cap t : Nat) (mis sat : Bool) (new o : OpenSum) (terms : List (Nat × SMap W32)), new.prov.length = 1 →
    ((m.getAcc t).st = .opened → (m.getAcc t).sum = some o →
      (mis = true ∨ o.tid ≠ new.tid ∨ o.origin ≠ new.origin ∨ o.cls ≠ new.cls ∨ o.srs ≠ new.srs ∨ o.wrs ≠ new.wrs) →
      m.accumulate cap t true mis new terms sat = (m, true)) ∧
    (terms.length ≤ RefSum.maxTerms → m.logUsed + 4 + 256 * terms.length ≤ cap →
      ∃ x, (m.accumulate cap t false mis new terms sat).2 = false ∧
        ((m.accumulate cap t false mis new terms sat).1.getAcc t).st = .opened ∧
        ((m.accumulate cap t false mis new terms sat).1.getAcc t).sum = some x ∧
        x.terms = terms ∧ x.tid = new.tid ∧ x.origin = new.origin ∧ x.cls = new.cls ∧ x.heat = new.heat ∧
        ∀ u, u ≠ t → (m.accumulate cap t false mis new terms sat).1.getAcc u = m.getAcc u)

/-- R57, R58, R117, R120: opening, adding to and closing an accumulator tile. -/
def Obligations.AccumulatorTiles : Prop := Sys2Proof.Claims.closeCombinesTerms ∧ Sys2Proof.Claims.accumulateOpensOrAdds

/-- R4, R57: the result of a combination does not depend on the order of its terms. -/
def Obligations.CombinationOrderFree : Prop :=
  ∀ (c : RefSum.SumCtx) (ts us : RefSum.Terms), ts.Perm us → RefSum.combine c ts = RefSum.combine c us

/-- R57, R61, R331: exchanging exponent codes and adding the members' partial windows gives what one combination of all their terms
would, however the terms are spread over the members. -/
def Obligations.ReductionMatchesCombination : Prop :=
  ∀ (c : RefSum.SumCtx) (ts : List (List (Nat × W32))), ts.flatten.length < 2 ^ 31 →
    let code := maxCode (ts.map fun t => codeOf (RefSum.ofBits t))
    let window (t : List (Nat × W32)) : BitVec 96 := match alignExp code with
      | some a => BitVec.ofInt 96 (RefSum.windowSum c a (RefSum.ofBits t))
      | none => 0
    windowResult code ((ts.map window).foldl (· + ·) 0) = RefSum.combine c (RefSum.ofBits ts.flatten)

/-- R141: `TILE` scope selects k candidates, or all where there are fewer, so that none left out is smaller than one selected, ties
going to the lower position; `THRESHOLD` selects those smaller than T, and a NaN T none. -/
def Obligations.PruneSelection : Prop :=
  ∀ (cands : List (Nat × Num.Val)) (k : Nat) (t : Num.Val), (cands.map (·.1)).Nodup → (∀ c ∈ cands, c.2.isNan = false) →
    (pruneSelect cands 1 k t).length = min k cands.length ∧ (pruneSelect cands 1 k t).Nodup ∧
    (∀ p ∈ pruneSelect cands 1 k t, ∃ x, (p, x) ∈ cands ∧ ∀ y ∈ cands, y.1 ∉ pruneSelect cands 1 k t →
      magLess x y.2 = true ∨ (magLess y.2 x = false ∧ p < y.1)) ∧
    ∀ p, p ∈ pruneSelect cands 2 k t ↔ ∃ x, (p, x) ∈ cands ∧ t.isNan = false ∧ magLess x t = true

/-- R142: a scan never accepts a position that would pass `NNZ_MAX`, nor more than k in one group of its scope, nor one that would
fill a group of eight beyond the cap; each position accepted counts one non-zero. -/
def Obligations.GrowRespectsLimits : Prop :=
  ∀ (scope k nmax cap : Nat) (a : GrowScan) (ps : List Nat), a.out = [] → a.taken = [] →
    let r := ps.foldl (growVisit scope (some k) nmax cap) a
    r.nnz = a.nnz + r.out.length ∧ (r.out ≠ [] → r.nnz ≤ nmax) ∧ r.out.Sublist ps ∧
    (∀ i, (r.out.filter fun p => (if scope = 0 then p / 128 else 0) == i).length ≤ k) ∧
    ∀ i, cap ≠ 0 → (r.out.filter fun p => p / 8 == i) ≠ [] →
      SMap.get 0 a.occ i + (r.out.filter fun p => p / 8 == i).length ≤ cap

/-- R138, R140 to R144, R149: `PRUNE`, `GROW` and `COMPACT` run in their queues, post and retire. -/
def Sys2Proof.Claims.patternInstructionsComplete : Prop :=
  ∀ (h : Hdr) (o : PatOps) (s : State),
    let d (r : BitVec 6) := (s.mould h.m.toNat).getD r.toNat
    let x (r : BitVec 5) := (s.mould h.m.toNat).getX r.toNat
    let n := (s.mould h.m.toNat).ser + 1
    (let w : State → Work := fun u => .prune o (d o.dw) (d o.dq) (x o.ra) (x o.rb) (u.modeBit 1) 0
     let r := runPrune (entered h s 2 w) h.m.toNat o (d o.dw) (d o.dq) (x o.ra) (x o.rb) (s.modeBit 1)
     alone h 2 w s (r.1.retireHead h.m.toNat 2 n r.2) → exec (.prune h o) s = .next (r.1.retireHead h.m.toNat 2 n r.2)) ∧
    (let h' := hdrAlso h (!s.modeBit 0 && o.dq != 0)
     let u := s.setMould h.m.toNat (past h' s)
     let ok := pcbCheck u h.m.toNat (d o.dw) (x o.rd)
     let w : State → Work := fun u => .grow o (d o.dw) (d o.dq) (x o.ra) (x o.rb) (x o.rc) (x o.rd)
       (pcbCheck u h.m.toNat (d o.dw) (x o.rd)) (u.modeBit 0) 0
     ∀ r, runGrow (entered h' s 2 w) h.m.toNat o (d o.dw) (d o.dq) (x o.ra) (x o.rb) (x o.rc) (x o.rd) ok (s.modeBit 0) = some r →
       alone h' 2 w s (r.1.retireHead h.m.toNat 2 n r.2) → exec (.grow h o) s = .next (r.1.retireHead h.m.toNat 2 n r.2)) ∧
    (let u := s.setMould h.m.toNat (past h s)
     let ok := pcbCheck u h.m.toNat (d o.dw) (x o.rb)
     let w : State → Work := fun u => .compact o (d o.dw) (x o.ra) (x o.rb) (pcbCheck u h.m.toNat (d o.dw) (x o.rb)) 0 0
     ∀ v p, runCompact (entered h s 0 w) h.m.toNat o (d o.dw) (x o.ra) (x o.rb) ok 0 = .done v p →
       alone h 0 w s (v.retireHead h.m.toNat 0 n p) → exec (.compact h o) s = .next (v.retireHead h.m.toNat 0 n p))

/-- R138, R149: a `COMPACT` of an empty slot, or with `DISCARD`, commits nothing and posts all ones; the slot is then empty. -/
def Sys2Proof.Claims.compactWithoutEdit : Prop :=
  ∀ (s : State) (g : Nat) (o : PatOps) (w : W512) (tile pcb : W64) (ok : Bool),
    ((s.mould g).getEdit o.slot.toNat = none → runCompact s g o w tile pcb ok 0 = .done s (BitVec.allOnes 64)) ∧
    ∀ x, (s.mould g).getEdit o.slot.toNat = some x → o.discard = true →
      ∃ t, runCompact s g o w tile pcb ok 0 = .done t (BitVec.allOnes 64) ∧ (t.mould g).getEdit o.slot.toNat = none ∧
        t.mem = s.mem ∧ t.risers = s.risers ∧ t.regs = s.regs ∧ (t.mould g).regs = (s.mould g).regs ∧ ∀ j, j ≠ g → t.mould j = s.mould j

/-- R138 to R144, R149: `PRUNE`, `GROW`, `COMPACT`. -/
def Obligations.PatternInstructions : Prop := Sys2Proof.Claims.patternInstructionsComplete ∧ Sys2Proof.Claims.compactWithoutEdit

/-- R176, R179, R180, R243 to R245: `EPLOAD` and `VRUN` run in the vector queue; a launch posts its summary. -/
def Sys2Proof.Claims.vectorInstructionsComplete : Prop :=
  (∀ (h : Hdr) (slot : BitVec 4) (ra : BitVec 5) (s : State),
    let a := (s.mould h.m.toNat).getX ra.toNat
    let w : State → Work := fun _ => .epload slot.toNat a
    let t := (runEpload (entered h s 1 w) h.m.toNat slot.toNat a).popHead h.m.toNat 1
    alone h 1 w s t → exec (.epload h slot ra) s = .next t) ∧
  ∀ (h : Hdr) (o : VrunOps) (s : State),
    let m := s.mould h.m.toNat
    let map := m.getX o.ra.toNat
    let w : State → Work := fun _ => .vrun o map (m.mapImages map) (m.scalars o.kb) true [] 0
    let n := if ((w s).sk (past h s)).isSome then m.ser + 1 else 0
    ∀ v p, runVrun (entered h s 1 w) h.m.toNat o map (m.mapImages map) (m.scalars o.kb)
        (launchCheck (s.setMould h.m.toNat (past h s)) h.m.toNat o.slot.toNat map) [] = .done v p →
      alone h 1 w s (v.retireHead h.m.toNat 1 n p) → exec (.vrun h o) s = .next (v.retireHead h.m.toNat 1 n p)

/-- R176: what the summaries post: 0 with no `SUMOP`; `COUNT` and `ANY` of the values that are not a zero, NaN among them; the
canonical NaN of an extreme over a NaN; otherwise `MAX` is one of the values and none lies above it. -/
def Sys2Proof.Claims.summaryValues : Prop :=
  ∀ vs : List W32, summaryOf 0 vs = 0 ∧ summaryOf 6 vs = BitVec.ofNat 64 (vs.filter fun v => !(Num.ofF32 v).isZero).length ∧
    summaryOf 7 vs = (if ∃ v ∈ vs, (Num.ofF32 v).isZero = false then 1 else 0) ∧
    (∀ k, 1 ≤ k → k ≤ 3 → (∃ v ∈ vs, (Num.ofF32 v).isNan = true) → summaryOf k vs = 0x7FC00000) ∧
    (vs ≠ [] → (∀ v ∈ vs, (Num.ofF32 v).isNan = false) → ∃ v ∈ vs, summaryOf 1 vs = v.setWidth 64 ∧
      ∀ u ∈ vs, Num.Val.lt (Num.ofF32 v) (Num.ofF32 u) = false)

/-- R176, R243 to R245: `EPLOAD`, `VRUN` and the summary that a launch posts. -/
def Obligations.VectorInstructions : Prop := Sys2Proof.Claims.vectorInstructionsComplete ∧ Sys2Proof.Claims.summaryValues

/-- R251: of one token's scores the k best are chosen, NaN ones never, the larger before the smaller and of equal ones the lower
expert. -/
def Obligations.ExpertSelection : Prop :=
  ∀ (k : Nat) (scores : List Num.Val),
    let r := selectExperts k scores
    r.length = min k (scores.filter fun v => !v.isNan).length ∧ (r.map (·.1)).Nodup ∧
    (∀ x ∈ r, scores[x.1]? = some x.2 ∧ x.2.isNan = false) ∧
    (∀ i j (hi : i < r.length) (hj : j < r.length), i < j →
      Num.Val.lt r[i].2 r[j].2 = false ∧ (Num.Val.lt r[j].2 r[i].2 = false → r[i].1 < r[j].1)) ∧
    ∀ e v, scores[e]? = some v → v.isNan = false → (∀ x ∈ r, x.1 ≠ e) → ∀ x ∈ r,
      Num.Val.lt x.2 v = false ∧ (Num.Val.lt v x.2 = false → x.1 < e)

/-! ## Formats -/

/-- R24, R27, R28: a finite value that a format represents is written unchanged in every rounding mode, with no clamp; the most
negative integer of a two's-complement format is never written. -/
def Sys2Proof.Claims.representableIsUnchanged : Prop :=
  ∀ (f : Num.Fmt) (mode : Num.RMode) (rnd : W32) (c : Nat), f ≠ .e8m0 → c < 2 ^ f.width → (Num.decode f c).isFin = true →
    (f = .int8 ∨ f = .int4 ∨ f = .int32 → c ≠ 2 ^ (f.width - 1)) → Num.convert f mode rnd (Num.decode f c) = (c, .none)

/-- R30: converting a finite value never gives an infinity or a NaN, and a magnitude clamp gives the largest finite magnitude. -/
def Sys2Proof.Claims.finiteStaysFinite : Prop :=
  ∀ (f : Num.Fmt) (mode : Num.RMode) (rnd : W32) (neg : Bool) (m : Nat) (e : Int), f ≠ .e8m0 →
    let r := Num.convert f mode rnd (.fin neg m e)
    (Num.decode f r.1).isFin = true ∧ r.1 < 2 ^ f.width ∧
    (r.2 = .magnitude → Num.Val.eqv (Num.decode f r.1).abs (Num.maxFinite f) = true)

/-- R24, R27, R28, R30: conversion of finite values. -/
def Obligations.ConversionResults : Prop := Sys2Proof.Claims.representableIsUnchanged ∧ Sys2Proof.Claims.finiteStaysFinite


/-! ## The runner -/

namespace Sys2Proof.Claims

/-- Collectives of R247 by constructor. -/
def collOps : List ((Hdr → CollOps → Instr) × CollKind) :=
  [(.rscat, .rscat), (.agath, .agath), (.ared, .ared), (.a2a, .a2a), (.rnorm, .rnorm)]

/-- Routing instructions of R250 by constructor, with their queues (R172) and whether they read a descriptor at ra. -/
def routeOps : List ((Hdr → RouteOps → Instr) × RouteKind × Nat × Bool) :=
  [(.rsel, .rsel, 2, false), (.tskip, .tskip, 2, false), (.gather, .gather, 4, false), (.scatter, .scatter, 4, false),
   (.dispatch, .dispatch, 4, true), (.return_, .return_, 4, true), (.combine, .combine, 4, true)]

/-- Nothing in the module can run and no `HEAT_END` record waits for room in the state stream. -/
def calm (s : State) : Prop := Still s ∧ s.heats.endWait = []

/-- From s to t one fault event of a class has been logged (R384, R385), with its mechanism, unit and action. -/
def faultLogged (s t : State) (mech unit cls action : Nat) : Prop :=
  t.pwr.fseq = s.pwr.fseq + 1 ∧ ∃ e : W512, t.heats.faults = s.heats.faults ++ [e] ∧
    e.toNat % 2 ^ 16 = (if cls = 1 then 2 else 1) ∧ e.toNat / 2 ^ 16 % 2 ^ 8 = mech ∧ e.toNat / 2 ^ 32 % 2 ^ 16 = unit ∧
    e.toNat / 2 ^ 48 % 2 ^ 8 = cls ∧ e.toNat / 2 ^ 56 % 2 ^ 8 = action

end Sys2Proof.Claims

/-- R173, R246 to R248: a collective with room in the runner queue captures its operands, reaches the runner, and whatever can run
then runs to its end. -/
def Sys2Proof.Claims.collectivesComplete : Prop :=
  ∀ p ∈ collOps, ∀ (h : Hdr) (o : CollOps) (s v : State) (xs : List Site),
    let w (u : State) : Work := .coll p.2 o ((u.mould h.m.toNat).getD o.ds.toNat) ((u.mould h.m.toNat).getD o.dd.toNat)
      ((u.mould h.m.toNat).descWords ((u.mould h.m.toNat).getX o.ra.toNat)).1
      ((u.mould h.m.toNat).descWords ((u.mould h.m.toNat).getX o.ra.toNat)).2 0 none
    let u := entered h s 4 w
    InHeat h s → ((s.mould h.m.toNat).queue 4).length < 8 → u.heats.endWait = [] → Chain xs u v →
      xs.length ≤ 4 * u.queued + 3 → exec (p.1 h o) s = .next v

/-- R246, R329: a collective whose descriptor address is bad, whose group is not valid or does not hold this device, or which
mould `LMASK` does not name, posts 0, is counted once and changes nothing else. -/
def Sys2Proof.Claims.collectiveRefused : Prop :=
  ∀ (s : State) (g : Nat) (k : CollKind) (ds dd : W512) (de : List W64) (ok : Bool) (ser : Nat),
    fld (de.getD 0 0) 6 5 ≠ 3 →
    (ok = false ∨ s.groupMembers (collGrp de) = none ∨ (∃ ms, s.groupMembers (collGrp de) = some ms ∧ s.devAddr ∉ ms) ∨
      g ∉ s.lmask (collGrp de)) →
    s.collIssue g k ds dd de ok ser = (s.count Reg.RUN_CNT_VIOL 1, some 0)

/-- R329 to R331: the first of several moulds of `LMASK` to issue opens the collective with its contribution; it holds its place only
where slots and a place are free (with exports, once the writer has issued, by whose shape the slots are known); nothing is posted and
nothing is sent until the others have issued. -/
def Sys2Proof.Claims.collectiveOpens : Prop :=
  ∀ (s : State) (g j : Nat) (k : CollKind) (ds dd : W512) (de : List W64) (ser : Nat),
    collRefused s g k ds dd de true = false → fld (de.getD 0 0) 6 5 ≠ 3 →
    (∀ f ∈ s.runner.finished, ¬(f.1 = collGrp de ∧ f.2.1 = collCseq de)) →
    s.findColl (collGrp de) (collCseq de) = none → j ∈ s.lmask (collGrp de) → j ≠ g →
    (∀ ms, s.groupMembers (collGrp de) = some ms → ∀ d ∈ ms, d ∉ s.runner.down) →
    (∀ i ∈ s.runner.early, ∀ q, collKeyOf i = some q → ¬(q.1 = collGrp de ∧ q.2.1 = collCseq de)) →
    let r := s.collIssue g k ds dd de true ser
    r.2 = none ∧ r.1.mem = s.mem ∧ r.1.runner.out = s.runner.out ∧
    ∃ c, r.1.findColl (collGrp de) (collCseq de) = some c ∧ c.kind = k ∧ c.wrs = bitOf (de.getD 0 0) 7 ∧ c.heat = s.heatNum ∧
      c.since = s.cnt ∧ c.local_.map (fun x => (x.g, x.ds, x.ser)) = [(g, ds, ser)] ∧
      (c.phase = .headers ↔ (collXsrc de = true → k.reduces = true → s.isWriter (collGrp de) g = true) ∧
        c.slots ≤ s.bufFree ∧ s.openColls < 64) ∧ (c.phase = .headers ∨ c.phase = .slots)

/-- R172, R173, R250: a routing instruction runs in its queue, posts where it names a summary register, and retires. -/
def Sys2Proof.Claims.routingComplete : Prop :=
  ∀ p ∈ routeOps, ∀ (h : Hdr) (o : RouteOps) (s : State),
    let m := s.mould h.m.toNat
    let d (r : BitVec 6) : W512 := m.getD r.toNat
    let x (r : BitVec 5) : W64 := m.getX r.toNat
    let de : List W64 × Bool := if p.2.2.2 then m.descWords (x o.ra) else ([], true)
    let w (_ : State) : Work := .route p.2.1 o (d o.d0) (d o.d1) (d o.d2) (x o.ra) (x o.rb) de.1 de.2 0
    let n := if p.2.1 = .rsel ∨ p.2.1 = .dispatch ∨ p.2.1 = .tskip then m.ser + 1 else 0
    ∀ v z, runRoute (entered h s p.2.2.1 w) h.m.toNat p.2.1 (d o.d0) (d o.d1) (d o.d2) (x o.ra) (x o.rb) de.1 de.2 = .done v z →
      alone h p.2.2.1 w s (v.retireHead h.m.toNat p.2.2.1 n z) →
      exec (p.1 h o) s = .next (v.retireHead h.m.toNat p.2.2.1 n z)

/-- R254, R255: what `GATHER` and `SCATTER` write: entry r of the list names the source row of destination row r, or the destination
row of source row r, the highest r winning; a gather index outside the source gives a row of zeros, a scatter index outside the
destination writes nothing, and a source row past the source's extent reads as zeros, each of its elements counted. -/
def Sys2Proof.Claims.rowPlans : Prop :=
  ∀ (idx : List (Option Int)) (rows src width : Nat),
    (∀ r q, (r, q) ∈ (gatherPlan idx rows src width).1 ↔
      r < rows ∧ ∃ i, idx[r]? = some (some i) ∧ q = if 0 ≤ i ∧ i < src then some i.toNat else none) ∧
    (∀ r q, (r, q) ∈ (scatterPlan idx rows src width).1 ↔
      r < rows ∧ ∃ k, idx[k]? = some (some (r : Int)) ∧ (∀ j, k < j → idx[j]? ≠ some (some (r : Int))) ∧
        q = if k < src then some k else none) ∧
    ((scatterPlan idx rows src width).1.map (·.1)).Nodup ∧
    ((∀ e ∈ idx, ∃ i : Int, e = some i ∧ 0 ≤ i ∧ i < rows ∧ i < src) → idx.length ≤ rows →
      (gatherPlan idx rows src width).2 = 0 ∧ (idx.length ≤ src → (scatterPlan idx rows src width).2 = 0))

/-- R246 to R256, R329 to R331: the instructions of the runner. -/
def Obligations.RunnerInstructions : Prop :=
  Sys2Proof.Claims.collectivesComplete ∧ Sys2Proof.Claims.collectiveRefused ∧ Sys2Proof.Claims.collectiveOpens ∧
  Sys2Proof.Claims.routingComplete ∧ Sys2Proof.Claims.rowPlans

/-! ## The risers -/

/-- R257, R258: a riser command goes to its riser, runs there, posts its value and retires. -/
def Sys2Proof.Claims.riserCommandsComplete : Prop :=
  ∀ (i : Instr) (h : Hdr) (w : State → Work) (s : State) (r : Nat), captured s i = some (h, 5, w) →
    let g := h.m.toNat
    let u := entered h s 5 w
    let e := atHead h s w
    let d := u.updRiser r fun x => { x with queue := x.queue ++ [⟨g, e, 0, 0, 0⟩] }
    InHeat h s → (s.mould g).queue 5 = [] → riserTarget u e = some r → r < 8 →
    (∀ k, k < 8 → ∀ c ∈ (u.riser k).queue, c.g ≠ g) → (u.riser r).queue = [] →
    (u.riser r).stopped = false → (u.riser r).recover = false → e.hitsError d = false →
    unheld u g 5 ((s.mould g).ser + 1) e → u.heats.endWait = [] →
    (∀ y : Site, y ≠ .head g 5 → y.run u = none) → (∀ y : Site, y ≠ .riser r → y.run d = none) →
    ∀ v p, runRiserCmd d r ⟨g, e, 0, 0, 0⟩ = .done v p →
      let t := (v.updRiser r fun x => { x with queue := x.queue.tail, recover := x.recover || x.opened.isSome }).retireHead g 5 e.serOf p
      Still t → exec i s = .next t

/-- R291, R258: `RPROG` loads a program slot of its riser; at a bad address the slot is invalid and one violation is counted. -/
def Sys2Proof.Claims.riserProgramLoad : Prop :=
  ∀ (s : State) (r n : Nat) (ws : List W32) (ok : Bool),
    ∃ t, runRprog s r n ws ok = .done t 0 ∧
      (SMap.get EpSlot.reset (t.riser r).slots n =
        if ok then epSlotOf true ws else { SMap.get EpSlot.reset (s.riser r).slots n with valid := false }) ∧
      (∀ k, k ≠ n → SMap.get EpSlot.reset (t.riser r).slots k = SMap.get EpSlot.reset (s.riser r).slots k) ∧
      (∀ k, k ≠ r → t.riser k = s.riser k) ∧ t.mem = s.mem ∧ t.moulds = s.moulds ∧
      t.reg (riserOff r Reg.RISER_CNT_VIOL) = s.reg (riserOff r Reg.RISER_CNT_VIOL) + (if ok then 0 else 1)

/-- R294, R295: one chunk of a `RUPD` whose riser has nothing open there: a chunk that this heat has already updated counts a repeat,
one of a later heat a violation, a bad one a skip, a claimed one waits; none of these touches memory. -/
def Sys2Proof.Claims.chunkUpdateGuards : Prop :=
  ∀ (h : Shard) (s : State) (dw : W512) (c : Nat) (sl : EpSlot) (ks : List W32) (l : Int) (gr : Grads),
    s.chunkOpen h.r h.e c = false →
    ((h.jnlAt s c).cheat = s.heatNum →
      h.updateChunk s dw c sl ks l gr = .done (s.rcount h.r Reg.RISER_CNT_REPEAT 1) 1) ∧
    (s.heatNum < (h.jnlAt s c).cheat →
      h.updateChunk s dw c sl ks l gr = .done (s.rcount h.r Reg.RISER_CNT_VIOL 1) 0) ∧
    ((h.jnlAt s c).cheat < s.heatNum → (h.jnlAt s c).bad = true →
      h.updateChunk s dw c sl ks l gr = .done (s.rcount h.r Reg.RISER_CNT_SKIP 1) 0) ∧
    ((h.jnlAt s c).cheat < s.heatNum → (h.jnlAt s c).bad = false → h.claimed s c = true →
      h.updateChunk s dw c sl ks l gr = .wait s)

/-- R302: an audit of an owner's shard whose digests all match posts 0, changes no memory and raises no fault; the heat record gets
the shard's entry. -/
def Sys2Proof.Claims.cleanAudit : Prop :=
  ∀ (h : Shard) (s : State),
    (∀ c, c < h.ch → h.wdig s c = (h.jnlAt s c).wdig ∧ h.sdig s c (h.jnlAt s c).bank = (h.jnlAt s c).sdig) →
    ∃ t, h.audit s h.auditOwner = .done t 0 ∧ t.mem = s.mem ∧ t.moulds = s.moulds ∧ t.heats = s.heats ∧ t.regs = s.regs ∧
      ∃ top dig, (t.riser h.r).audits = (s.riser h.r).audits ++ [(h.v.tid, top, dig)] ∧
        ∀ c, c < h.ch → (h.jnlAt s c).cheat ≤ top

/-- R257, R258, R291 to R302: the instructions of the risers. -/
def Obligations.RiserInstructions : Prop :=
  Sys2Proof.Claims.riserCommandsComplete ∧ Sys2Proof.Claims.riserProgramLoad ∧ Sys2Proof.Claims.chunkUpdateGuards ∧
  Sys2Proof.Claims.cleanAudit

/-! ## Events of a mould's engines -/

/-- R129, R196: writes of `VEC_CFG` and `MENG_CFG`, and a pending enable that takes effect. -/
def Sys2Proof.Claims.engineConfiguration : Prop :=
  (∀ (g : BitVec 8) (v : W64) (s : State), v.toNat < 2 → ∃ t, exec (.vecCfgWrite g v) s = .next t ∧ sameButMould g.toNat s t ∧
    let m := s.mould g.toNat
    let n := t.mould g.toNat
    (v = 0 → n.reg Reg.VEC_CFG = 0 ∧ n.ftqPend = false) ∧
    (v = 1 → m.queue 1 = [] → m.ftq = [] → bitOf (m.reg Reg.VEC_CFG) 0 = false → n.reg Reg.VEC_CFG = 1 ∧ n.ftqPend = false) ∧
    (v = 1 → (m.queue 1 ≠ [] ∨ m.ftq ≠ []) → bitOf (m.reg Reg.VEC_CFG) 0 = false →
      n.reg Reg.VEC_CFG = m.reg Reg.VEC_CFG ∧ n.ftqPend = true) ∧
    n.queues = m.queues ∧ n.ftq = m.ftq ∧ n.reg Reg.VEC_CNT_VIOL = m.reg Reg.VEC_CNT_VIOL) ∧
  (∀ (g : BitVec 8) (s : State), ∃ t, exec (.ftqEnableEffect g) s = .next t ∧ sameButMould g.toNat s t ∧
    let m := s.mould g.toNat
    let n := t.mould g.toNat
    (m.ftqPend = true → m.queue 1 = [] → m.ftq = [] → bitOf (m.reg Reg.VEC_CFG) 0 = false →
      n.reg Reg.VEC_CFG = 1 ∧ n.ftqPend = false) ∧
    ((m.ftqPend = false ∨ m.queue 1 ≠ [] ∨ m.ftq ≠ []) → n = m)) ∧
  ∀ (g : BitVec 8) (v : W64) (s : State), ∃ t, exec (.mengCfgWrite g v) s = .next t ∧ sameButMould g.toNat s t ∧
    let m := s.mould g.toNat
    let n := t.mould g.toNat
    (24 < fld v 20 16 + fld v 12 8 → n = m.count Reg.MENG_CNT_VIOL 1) ∧
    (fld v 20 16 + fld v 12 8 ≤ 24 → fld (n.reg Reg.MENG_CFG) 20 16 = fld v 20 16 ∧
      fld (n.reg Reg.MENG_CFG) 12 8 = fld v 12 8 ∧ n.acc = m.acc ∧ n.ocache = m.ocache)

/-- R188: once the finished-tile queue of four entries has room the closed group enters it in order and the instruction retires; each
of its tiles is then queued. -/
def Sys2Proof.Claims.finishedTilePush : Prop :=
  (∀ (g : BitVec 8) (ts : List Nat) (f : W64) (s : State), (s.mould g.toNat).engWait = .push ts f →
    let z := (s.updMould g.toNat fun m =>
      { ((m.pushGroup ts).setReg Reg.MENG_FLAGS f).orReg Reg.MENG_FLAGS_STICKY f with engWait := .none }).popHead g.toNat 0
    ((s.mould g.toNat).ftq.length + ts.length ≤ 4 → calm z → exec (.ftqPush g) s = .next z) ∧
    (4 < (s.mould g.toNat).ftq.length + ts.length → exec (.ftqPush g) s = .next s)) ∧
  ∀ (m : Mould) (ts : List Nat), ((m.pushGroup ts).ftq.map (·.tile) = m.ftq.map (·.tile) ++ ts) ∧
    (∀ t ∈ ts, ((m.pushGroup ts).getAcc t).st = .queued) ∧ ∀ t, t ∉ ts → (m.pushGroup ts).getAcc t = m.getAcc t

/-- R67, R123: an overflowed group that waits at the head is recomputed and the instruction retires; with none nothing happens. -/
def Sys2Proof.Claims.overflowRecompute : Prop :=
  ∀ (g : BitVec 8) (s : State),
    (∀ t, recomputeHead s g.toNat = some t → calm t → exec (.overflowRecompute g) s = .next t) ∧
    ((∀ ts f, (s.mould g.toNat).engWait ≠ .recomp ts f) → exec (.overflowRecompute g) s = .next s)

/-- R149: a `COMPACT` that waits at step 5 or 9 goes on; when its steps are done it posts and retires. -/
def Sys2Proof.Claims.compactGoesOn : Prop :=
  ∀ (g : BitVec 8) (s : State) (n k ph : Nat) (o : PatOps) (d : W512) (t pcb : W64) (ok : Bool) (l : List QEnt),
    (s.mould g.toNat).queue 0 = .work n (.compact o d t pcb ok k ph) :: l → (s.mould g.toNat).stopped = false → ph ≠ 0 →
    (∀ v p, runCompact s g.toNat o d t pcb ok ph = .done v p → calm (v.retireHead g.toNat 0 k p) →
      exec (.compactResume g) s = .next (v.retireHead g.toNat 0 k p)) ∧
    ∀ v p, runCompact s g.toNat o d t pcb ok ph = .wait v p →
      exec (.compactResume g) s = .next (v.setHead g.toNat 0 n (.compact o d t pcb ok k p))

/-- R126, R378: while comparisons are made a first mismatch is retried and counted, and the mould stays in service; with comparisons
off, or in a mould that is not in service, nothing is found. -/
def Sys2Proof.Claims.checkMismatchMasked : Prop :=
  ∀ (g : BitVec 8) (sel : BitVec 2) (s : State),
    ((s.hchk = false ∨ s.serving g.toNat = false) → ∀ again, exec (.checkMismatch g sel again) s = .next s) ∧
    (s.hchk = true → s.serving g.toNat = true → ∃ t, exec (.checkMismatch g sel false) s = .next t ∧
      let o := s.occupant g.toNat
      (t.mould o).retries = (s.mould o).retries + 1 ∧
      (t.mould o).reg Reg.MENG_CHK_RETRY = (s.mould o).reg Reg.MENG_CHK_RETRY + 1 ∧
      (∀ j, j ≠ o → t.mould j = s.mould j) ∧ t.mstate g.toNat = s.mstate g.toNat ∧ t.mem = s.mem ∧
      (t.mould o).queues = (s.mould o).queues ∧ (t.mould o).acc = (s.mould o).acc)

/-- R126, R166, R386, R389, R390: a lock-step mismatch, or a second mismatch in a retry, fails the mould: with another mould of its
crucible in service a degraded fault is logged, the mould is fenced and its index's work waits for a carrier; otherwise the fault is
fatal. -/
def Sys2Proof.Claims.mouldFailure : Prop :=
  ∀ (g : BitVec 8) (sel : BitVec 2) (s : State), s.serving g.toNat = true →
    ∀ p ∈ [(Instr.lockstepMismatch g, 3), (Instr.checkMismatch g sel true, if sel = 0 then 1 else 2)],
      (p.1 = Instr.lockstepMismatch g ∨ s.hchk = true) → ∃ t, exec p.1 s = .next t ∧
      t.mstate g.toNat = Svc.failed ∧ (t.mould g.toNat).running = false ∧ t.mem = s.mem ∧
      (s.crucibleAlive g.toNat = true → faultLogged s t p.2 g.toNat 2 2 ∧ (t.mould g.toNat).stopped = true ∧
        (g.toNat, none) ∈ t.heats.guests ∧ t.hostOf g.toNat = none) ∧
      (s.crucibleAlive g.toNat = false → faultLogged s t p.2 g.toNat 4 9 ∧ t.heats.fatal = true ∧ t.heatRuns = false)

/-- R191: a fault in the control of the finished-tile queue is masked, and the mould goes to the fall-back path at once. -/
def Sys2Proof.Claims.ftqControlFault : Prop :=
  ∀ (g : BitVec 8) (s : State), s.serving g.toNat = true →
    let o := s.occupant g.toNat
    let z := (s.raiseFault { mech := 2, unit := g.toNat, cls := .masked, action := 0, detail := (s.mould o).detail }).updMould o
      fun m => { m with ftqPend := false }.setReg Reg.VEC_CFG 0
    calm z → exec (.ftqControlFault g) s = .next z

/-- R67, R123, R126, R129, R149, R166, R188, R191, R196: what happens in a mould's engines between instructions. -/
def Obligations.EngineEvents : Prop :=
  Sys2Proof.Claims.engineConfiguration ∧ Sys2Proof.Claims.finishedTilePush ∧ Sys2Proof.Claims.overflowRecompute ∧
  Sys2Proof.Claims.compactGoesOn ∧ Sys2Proof.Claims.checkMismatchMasked ∧ Sys2Proof.Claims.mouldFailure ∧
  Sys2Proof.Claims.ftqControlFault

/-! ## Events of the risers -/

/-- R301: a peer's request for a chunk is served while it is not `COMMITTED` and no claim is held, answered with an error where the
riser does not own the shard or the chunk is bad, and waits otherwise. -/
def Sys2Proof.Claims.fetchServeResult : Prop :=
  ∀ (r : BitVec 3) (tid : BitVec 24) (c : W32) (dev : W16) (da : W512) (s : State),
    (s.ownedShard r.toNat tid.toNat da = none →
      exec (.fetchServe r tid c ⟨dev, da⟩) s = .next (s.send (.fetch r.toNat tid.toNat c.toNat dev [] [] 0 0 true))) ∧
    ∀ h, s.ownedShard r.toNat tid.toNat da = some h →
      let j := h.jnlAt s c.toNat
      ((j.phase = 3 ∨ h.claimed s c.toNat = true) → exec (.fetchServe r tid c ⟨dev, da⟩) s = .next s) ∧
      (j.phase ≠ 3 → h.claimed s c.toNat = false → j.bad = true →
        exec (.fetchServe r tid c ⟨dev, da⟩) s = .next (s.send (.fetch r.toNat tid.toNat c.toNat dev [] [] j.wdig j.cheat true))) ∧
      (j.phase ≠ 3 → h.claimed s c.toNat = false → j.bad = false →
        exec (.fetchServe r tid c ⟨dev, da⟩) s = .next (s.send (.fetch r.toNat tid.toNat c.toNat dev
          ((h.chunkTiles c.toNat).map fun k => h.v.dirWords s 0 (k / h.v.tileCols) (k % h.v.tileCols))
          ((h.receive s h.v c.toNat).map (·.rec_)) j.wdig j.cheat false))) ∧
      (h.receive s h.v c.toNat).length = (h.chunkTiles c.toNat).length

/-- R301 steps 1 to 3c: on a peer's report the owner recomputes the digests: a matching `WDIG` changes nothing but logs the fault; with a
good state digest the working copy is written again from the masters; a bad one marks the chunk bad. -/
def Sys2Proof.Claims.mismatchReportResult : Prop :=
  ∀ (r : BitVec 3) (tid : BitVec 24) (c : W32) (dev : W16) (da : W512) (s : State) (h : Shard), s.hchk = true →
    s.ownedShard r.toNat tid.toNat da = some h →
    let j := h.jnlAt s c.toNat
    ∃ t, exec (.mismatchReport r tid c ⟨dev, da⟩) s = .next t ∧
      (h.wdig s c.toNat = j.wdig → t.mem = s.mem ∧ faultLogged s t 0x0A (0x100 + r.toNat) 2 0) ∧
      (h.wdig s c.toNat ≠ j.wdig → h.sdig s c.toNat j.bank = j.sdig →
        let u := h.publish s c.toNat
        t.mem = (writeJnl u (h.jnlAddr c.toNat) { j with wdig := h.wdig u c.toNat }).mem) ∧
      (h.wdig s c.toNat ≠ j.wdig → h.sdig s c.toNat j.bank ≠ j.sdig →
        t.mem = (writeJnl s (h.jnlAddr c.toNat) { j with bad := true }).mem ∧ faultLogged s t 0x0A (0x100 + r.toNat) 2 0)

/-- R297: a riser that must resume does so before it takes a command; with no chunk in doubt it just goes on. -/
def Sys2Proof.Claims.riserResumeResult : Prop :=
  ∀ (r : BitVec 3) (s : State),
    ((s.riser r.toNat).recover = false → (s.riser r.toNat).stopped = false → exec (.riserResume r) s = .next s) ∧
    ((s.riser r.toNat).recover = true ∨ (s.riser r.toNat).stopped = true → s.logOk r.toNat = false →
      let z := s.updRiser r.toNat fun q => { q with opened := none, recover := false, stopped := false }
      calm z → exec (.riserResume r) s = .next z) ∧
    ((s.riser r.toNat).recover = true ∨ (s.riser r.toNat).stopped = true →
      ∀ t, resumeChunk s r.toNat = (t, true) →
        let z := t.updRiser r.toNat fun q => { q with opened := none, recover := false, stopped := false }
        calm z → exec (.riserResume r) s = .next z)

/-- R303, R304, R391: a mismatch of a riser's duplicated units is retried once and counted; a second one fails the riser: a degraded fault
is logged, and it must resume before the moulds go on with its commands. -/
def Sys2Proof.Claims.riserCheckMismatchResult : Prop :=
  ∀ (r : BitVec 3) (s : State),
    ((s.hchk = false ∨ s.riserServing r.toNat = false) → ∀ again, exec (.riserCheckMismatch r again) s = .next s) ∧
    (s.hchk = true → s.riserServing r.toNat = true →
      (∃ t, exec (.riserCheckMismatch r false) s = .next t ∧ t.risers = s.risers ∧ t.moulds = s.moulds ∧ t.mem = s.mem ∧
        t.reg (riserOff r.toNat Reg.RISER_CHK_RETRY) = s.reg (riserOff r.toNat Reg.RISER_CHK_RETRY) + 1) ∧
      (calm (s.failRiser r.toNat 2) → (s.riser r.toNat).queue = [] → ∃ t, exec (.riserCheckMismatch r true) s = .next t ∧
        (t.riser r.toNat).failed = true ∧ (t.riser r.toNat).recover = true ∧ t.riserServing r.toNat = false ∧
        faultLogged s t 2 (0x100 + r.toNat) 2 3 ∧ t.mem = s.mem))

/-- R297, R301, R303, R304: what reaches a riser from outside. -/
def Obligations.RiserEvents : Prop :=
  Sys2Proof.Claims.fetchServeResult ∧ Sys2Proof.Claims.mismatchReportResult ∧ Sys2Proof.Claims.riserResumeResult ∧
  Sys2Proof.Claims.riserCheckMismatchResult

/-! ## Regions and the memory system -/

/-- R267, R270: a request for a free region gives the result of the checks in `RSTAT`, and allocates it exactly where they all pass; while
`BUSY` it is latched. An HBM region that is allocated names the bytes at its places; no other byte of local memory changes. -/
def Sys2Proof.Claims.regionAllocateResult : Prop :=
  ∀ (n : BitVec 6) (v : W64) (s : State),
    let off := rgnOff Reg.MEM_RGN_CTL n.toNat
    bitOf (s.reg off) 63 = false → ∃ t, exec (.regionAllocate n v) s = .next t ∧
      (t.mem = if bitOf (s.reg off) 62 = false ∧ s.rgnCheck n.toNat = 0 ∧ windowOf (s.rgnBase n.toNat) = some .hbm then
          s.mem.fromPlaces (s.rgnBase n.toNat) (s.rgnLimit n.toNat) (s.reg (rgnOff Reg.MEM_RGN_PLACE n.toNat)) s.epoch
        else s.mem) ∧
      (∀ a, a < placeStart → ¬(s.rgnBase n.toNat ≤ a ∧ a < s.rgnLimit n.toNat) → t.mem.get a = s.mem.get a) ∧
      t.moulds = s.moulds ∧ (∀ k, k < 64 → k ≠ n.toNat → t.rgnAlloc k = s.rgnAlloc k) ∧
      t.rgnBase n.toNat = s.rgnBase n.toNat ∧ t.rgnLimit n.toNat = s.rgnLimit n.toNat ∧
      fld (t.reg off) 7 6 = fld v 7 6 ∧ fld (t.reg off) 3 0 = fld v 3 0 ∧
      (bitOf (s.reg off) 62 = false →
        fld (t.reg off) 15 8 = s.rgnCheck n.toNat ∧ t.rgnAlloc n.toNat = (s.rgnCheck n.toNat == 0)) ∧
      (bitOf (s.reg off) 62 = true → bitOf (t.reg off) 61 = true ∧ fld (t.reg off) 15 8 = 8 ∧ t.rgnAlloc n.toNat = false)

/-- R267: an allocation that passes overlaps no other allocated region, and its limit lies above its base. -/
def Sys2Proof.Claims.allocatedRegionsDisjoint : Prop :=
  ∀ (n : Nat) (s : State), s.rgnCheck n = 0 → s.rgnBase n < s.rgnLimit n ∧
    ∀ k, k < 64 → k ≠ n → s.rgnAlloc k = true → s.rgnLimit k ≤ s.rgnBase n ∨ s.rgnLimit n ≤ s.rgnBase k

/-- R85, R268: freeing a region makes it `BUSY` on the range that it had and leaves every local descriptor register that names it void with
the cause of a rewrite, those that were void before too; a remote one, or one of another region, stays, and no byte of memory changes. A
register at its reset image names no region. -/
def Sys2Proof.Claims.regionFreeResult : Prop :=
  ∀ (n : BitVec 6) (v : W64) (s : State),
    let off := rgnOff Reg.MEM_RGN_CTL n.toNat
    bitOf (s.reg off) 63 = true → ∃ t, exec (.regionFree n v) s = .next t ∧ t.mem = s.mem ∧
      t.rgnAlloc n.toNat = false ∧ bitOf (t.reg off) 62 = true ∧
      (n.toNat, s.rgnBase n.toNat, s.rgnLimit n.toNat, s.reg (rgnOff Reg.MEM_RGN_PLACE n.toNat)) ∈ t.draining ∧
      ∀ g r, ((s.mould g).getD r ≠ voidImage → imgDev ((s.mould g).getD r) = s.devAddr → imgRegion ((s.mould g).getD r) = n.toNat →
          viewOf ((t.mould g).getD r) = none ∧ imgFld ((t.mould g).getD r) 0 31 24 = 0x0D) ∧
        (¬(imgDev ((s.mould g).getD r) = s.devAddr ∧ imgRegion ((s.mould g).getD r) = n.toNat) →
          (t.mould g).getD r = (s.mould g).getD r) ∧
        (t.mould g).dmem = (s.mould g).dmem ∧ (t.mould g).ocache = (s.mould g).ocache

/-- R268 to R270: the end of a drain frees the region, whose HBM bytes stay at their places, or goes on to the checks of the latched
request; a change of the hint keeps the allocation. -/
def Sys2Proof.Claims.regionDrainAndHint : Prop :=
  (∀ (n : BitVec 6) (s : State),
    let off := rgnOff Reg.MEM_RGN_CTL n.toNat
    bitOf (s.reg off) 62 = true → s.rgnInUse n.toNat = false → ∃ t, exec (.regionDrainComplete n) s = .next t ∧
      t.moulds = s.moulds ∧ bitOf (t.reg off) 62 = false ∧ bitOf (t.reg off) 61 = false ∧ (∀ x ∈ t.draining, x.1 ≠ n.toNat) ∧
      (bitOf (s.reg off) 61 = false → t.rgnAlloc n.toNat = false ∧ fld (t.reg off) 15 8 = 1 ∧
        t.mem = match s.draining.find? fun x => x.1 == n.toNat with
          | some (_, a, b, pl) => if windowOf a = some .hbm then s.mem.toPlaces a b pl else s.mem
          | none => s.mem) ∧
      (bitOf (s.reg off) 61 = true → t.rgnAlloc n.toNat = (s.rgnCheck n.toNat == 0) ∧
        fld (t.reg off) 15 8 = s.rgnCheck n.toNat)) ∧
  ∀ (n : BitVec 6) (v : W64) (s : State),
    let off := rgnOff Reg.MEM_RGN_CTL n.toNat
    bitOf (s.reg off) 62 = false → bitOf (s.reg off) 61 = false → ∃ t, exec (.regionHintChange n v) s = .next t ∧ t.mem = s.mem ∧
      t.moulds = s.moulds ∧ t.rgnAlloc n.toNat = s.rgnAlloc n.toNat ∧ fld (t.reg off) 7 6 = fld v 7 6 ∧
      fld (t.reg off) 3 0 = fld v 3 0

/-- R274, R275: a split above 16 steps is refused and counted; a request waits while a mould of the crucible runs a heat; it then takes
effect, or is refused where a region lies in the part given up. Bytes gained hold no defined value; no other byte changes. A spill area
in the part given up has size zero from then on. -/
def Sys2Proof.Claims.flaskSplit : Prop :=
  (∀ (c : BitVec 2) (v : W64) (s : State),
    let off := Reg.MEM_FLASK_SPLIT + 8 * c.toNat
    (16 < fld v 4 0 → exec (.flaskSplitRequest c v) s = .next (s.count Reg.MEM_CNT_VIOL 1)) ∧
    (fld v 4 0 ≤ 16 → s.crucibleIdle c.toNat = false → ∃ t, exec (.flaskSplitRequest c v) s = .next t ∧ t.mem = s.mem ∧
      bitOf (t.reg off) 16 = true ∧ fld (t.reg off) 4 0 = fld v 4 0 ∧ t.scratchSteps c.toNat = s.scratchSteps c.toNat)) ∧
  ∀ (c : BitVec 2) (s : State),
    let off := Reg.MEM_FLASK_SPLIT + 8 * c.toNat
    let k := fld (s.reg off) 4 0
    let old := s.scratchSteps c.toNat
    bitOf (s.reg off) 16 = true → s.crucibleIdle c.toNat = true → ∃ t, exec (.flaskSplitApply c) s = .next t ∧
      bitOf (t.reg off) 16 = false ∧
      (k < old → s.flaskUsed c.toNat k = true → bitOf (t.reg off) 17 = true ∧ t.scratchSteps c.toNat = old ∧ t.mem = s.mem) ∧
      (¬(k < old ∧ s.flaskUsed c.toNat k = true) → t.scratchSteps c.toNat = k ∧ bitOf (t.reg off) 17 = false ∧
        (∀ a, (a < flaskStart c.toNat + stepBytes * old ∨ flaskStart c.toNat + stepBytes * k ≤ a) → t.mem.get a = s.mem.get a) ∧
        ∀ g, (g / 64 = c.toNat → (s.mould g).spillLost c.toNat old k = true → t.spillSize g = 0) ∧
          ((g / 64 ≠ c.toNat ∨ (s.mould g).spillLost c.toNat old k = false) → t.mould g = s.mould g))

/-- R85, R267 to R269, R274, R275: regions and the flask split. -/
def Obligations.RegionCommands : Prop :=
  Sys2Proof.Claims.regionAllocateResult ∧ Sys2Proof.Claims.allocatedRegionsDisjoint ∧ Sys2Proof.Claims.regionFreeResult ∧
  Sys2Proof.Claims.regionDrainAndHint ∧ Sys2Proof.Claims.flaskSplit

/-- R280: in hardware mode a core voltage moves by at most 10 mV in a sample: down, to no less than 620 mV, where a sensor is at
its threshold; up, to no more than the set point, where all are 3 °C below. -/
def Sys2Proof.Claims.thermalSteps : Prop :=
  ∀ (s : State) (temps : BitVec 192) (c : Nat), c < 4 → s.modeBit 9 = false →
    let off := Reg.MEM_THERM_STATUS + 8 * c
    let v := s.field off 25 16
    let vset := s.field (Reg.MEM_VTARGET + 8 * c) 9 0
    let ft := s.field Reg.MEM_THERM_CFG 31 24
    let ht := s.field Reg.MEM_THERM_CFG 23 16
    let hot := ft ≤ tempAt temps (6 + c) ∨ ht ≤ tempAt temps (10 + 2 * c) ∨ ht ≤ tempAt temps (11 + 2 * c)
    let cool := tempAt temps (6 + c) + 3 ≤ ft ∧ tempAt temps (10 + 2 * c) + 3 ≤ ht ∧ tempAt temps (11 + 2 * c) + 3 ≤ ht
    let t := s.thermStep temps c
    (hot → t.field off 25 16 = max 620 (v - 10)) ∧ (cool → v < vset → t.field off 25 16 = min vset (v + 10)) ∧
      (¬hot → ¬(cool ∧ v < vset) → t.field off 25 16 = v) ∧ (t.field off 0 0 = 1 ↔ t.field off 25 16 < vset) ∧ t.mem = s.mem ∧
      t.moulds = s.moulds

/-- R280, R442: in `READY`, and in `BOOTWAIT`, where the core rails are up (log entry 56), a sample below every trip temperature gives each
crucible its step and its three temperatures and changes no memory; a sensor at its trip temperature in two samples running, or the power
stage at 125 °C, trips the module into `HELD` with reset cause 7. -/
def Sys2Proof.Claims.thermalSampleResult : Prop :=
  ∀ (temps : BitVec 192) (s : State), s.pwr.st = .ready ∨ s.pwr.st = .bootwait → ∃ t, exec (.thermalSample temps) s = .next t ∧ t.pwr.temps = temps ∧
    (hotSensors temps = [] → tempAt temps 18 < 125 → t.pwr.st = s.pwr.st ∧ t.mem = s.mem ∧ t.moulds = s.moulds ∧
      ∀ c, c < 4 → t.reg (Reg.MEM_THERM_STATUS + 8 * c) = (s.thermStep temps c).reg (Reg.MEM_THERM_STATUS + 8 * c) ∧
        t.field (Reg.MEM_THERM_STATUS + 8 * c) 39 32 = tempAt temps (6 + c) ∧
        t.field (Reg.MEM_THERM_STATUS + 8 * c) 47 40 = tempAt temps (10 + 2 * c) ∧
        t.field (Reg.MEM_THERM_STATUS + 8 * c) 55 48 = tempAt temps (11 + 2 * c)) ∧
    ((∃ i ∈ hotSensors temps, i ∈ s.pwr.hotLast) ∨ 125 ≤ tempAt temps 18 →
      t.pwr.st = .held ∧ t.pwr.tripped = true ∧ t.pwr.thermtrip = true ∧ t.field Reg.PWR_RST_CAUSE 31 0 = 7)

/-- R260, R382: scrubbing keeps every word; the errors that the stacks have corrected by then, a number that the manual leaves open, are
added to `MEM_CNT_CORR`, and no other register changes. -/
def Sys2Proof.Claims.scrubResult : Prop :=
  ∀ s : State, ∃ t, exec .scrub s = .next t ∧ t.reg Reg.MEM_CNT_CORR = s.reg Reg.MEM_CNT_CORR + Config.freeWord s.free ∧
    (∀ off, off ≠ Reg.MEM_CNT_CORR → t.reg off = s.reg off) ∧ t.mem = s.mem ∧ t.moulds = s.moulds ∧ t.risers = s.risers ∧
    t.runner = s.runner ∧ t.host = s.host ∧ t.heats = s.heats ∧ t.pwr = s.pwr ∧ t.pending = s.pending

/-- R305, R310: while the ring is on and valid a write of its base or limit is ignored (that it is counted is the model's choice, log entry
72); otherwise the ring is empty with its head and tail at 0. The tail moves to the offset of bits 47 to 0 where it has not passed it,
whatever the reserved bits hold; an offset outside what is unread is refused. -/
def Sys2Proof.Claims.streamRing : Prop :=
  (∀ (limit : Bool) (v : W64) (s : State),
    let off := if limit then Reg.RISER_SS_LIMIT else Reg.RISER_SS_BASE
    (s.ringOn = true → s.ringValid = true → exec (.streamRingConfig limit v) s = .next (s.count (violCounter off) 1)) ∧
    ((s.ringOn = false ∨ s.ringValid = false) →
      let z := ((s.plainWrite off v).setReg Reg.RISER_SS_HEAD 0).setReg Reg.RISER_SS_TAIL 0
      calm { z with host := { z.host with ringUsed := 0 } } →
      exec (.streamRingConfig limit v) s = .next { z with host := { z.host with ringUsed := 0 } })) ∧
  ∀ (v : W64) (s : State),
    let size := s.ringSize
    let dest := fld v 47 0
    let adv := (dest + size - (s.reg Reg.RISER_SS_TAIL).toNat) % size
    (0 < size → dest < size → adv ≤ s.host.ringUsed →
      let z := (s.judge Reg.RISER_SS_TAIL v).setReg Reg.RISER_SS_TAIL (BitVec.ofNat 64 dest)
      calm { z with host := { z.host with ringUsed := z.host.ringUsed - adv } } →
      exec (.streamTailWrite v) s = .next { z with host := { z.host with ringUsed := z.host.ringUsed - adv } }) ∧
    ((size = 0 ∨ size ≤ dest ∨ s.host.ringUsed < adv) →
      exec (.streamTailWrite v) s = .next (s.count (violCounter Reg.RISER_SS_TAIL) 1))

/-- R280, R281, R305, R310, R382: voltages, scrubbing and the stream ring. -/
def Obligations.MemorySystemEvents : Prop :=
  Sys2Proof.Claims.thermalSteps ∧ Sys2Proof.Claims.thermalSampleResult ∧ Sys2Proof.Claims.scrubResult ∧ Sys2Proof.Claims.streamRing

/-! ## Ports, packets and time -/

/-- R313, R314, R347, R395: what a write of `ENABLE` does to a port in each of its states. -/
def Sys2Proof.Claims.portControl : Prop :=
  ∀ (p : BitVec 4) (s : State),
    let st := s.portState p.toNat
    (∃ t, exec (.portEnable p) s = .next t ∧ bitOf (t.reg (pctlOff p.toNat)) 0 = true ∧ t.mem = s.mem ∧ t.moulds = s.moulds ∧
      (st = PortSt.down ∨ st = PortSt.miscabled ∨ st = PortSt.failed → s.portExists p.toNat = true →
        t.portState p.toNat = PortSt.training ∧ t.port p.toNat = Port.reset) ∧
      (st = PortSt.up ∨ st = PortSt.training → t.portState p.toNat = st ∧ t.port p.toNat = s.port p.toNat) ∧
      (st = PortSt.draining → t.portState p.toNat = st ∧ t.portPend p.toNat = true)) ∧
    (∃ t, exec (.portDrain p) s = .next t ∧ bitOf (t.reg (pctlOff p.toNat)) 0 = false ∧ t.mem = s.mem ∧ t.moulds = s.moulds ∧
      (st = PortSt.up → t.portState p.toNat = PortSt.draining ∧ s.linkId s.devAddr p.toNat ∈ t.runner.links) ∧
      (st = PortSt.draining → t.portState p.toNat = PortSt.draining ∧ t.portPend p.toNat = false) ∧
      (st ≠ PortSt.up → st ≠ PortSt.draining → t.portState p.toNat = PortSt.down)) ∧
    (st = PortSt.draining → (s.port p.toNat).waiting = [] → (s.port p.toNat).retry = [] →
      ∃ t, exec (.portDrainComplete p) s = .next t ∧ t.portPend p.toNat = false ∧ t.mem = s.mem ∧
        (s.portPend p.toNat = false → t.portState p.toNat = PortSt.down) ∧
        (s.portPend p.toNat = true → s.portExists p.toNat = true → t.portState p.toNat = PortSt.training)) ∧
    (st = PortSt.draining → ((s.port p.toNat).waiting ≠ [] ∨ (s.port p.toNat).retry ≠ []) → exec (.portDrainComplete p) s = .next s)

/-- R313, R314, R316, R317, R320, R382: how training ends: `UP` with the credits of R319 where the peer is the one that the topology
gives, `MISCABLED` otherwise, `DOWN` with a fault of mechanism 12 at a timeout (that the state is R313's is the model's choice, log entry
73); one second later hardware recalibration trains an enabled port again. -/
def Sys2Proof.Claims.portTraining : Prop :=
  ∀ (p : BitVec 4) (peer : W16) (pp : BitVec 4) (rtt : BitVec 12) (skew : BitVec 32) (s : State),
    (s.portState p.toNat = PortSt.training → ∃ t, exec (.portTrainingComplete p peer pp ⟨rtt, skew⟩) s = .next t ∧
      fld (t.reg (pstOff p.toNat)) 63 48 = peer.toNat ∧ fld (t.reg (pstOff p.toNat)) 47 44 = pp.toNat ∧ t.mem = s.mem ∧
      (s.peerOf s.devAddr p.toNat = (peer.toNat, pp.toNat) → t.portState p.toNat = PortSt.up ∧
        fld (t.reg (pstOff p.toNat)) 43 32 = rtt.toNat ∧ (∀ v, v < 8 → (t.port p.toNat).credit v = 128) ∧
        (t.port p.toNat).shared = 7168 ∧ (t.port p.toNat).skew = skew ∧ s.linkId s.devAddr p.toNat ∉ t.runner.links) ∧
      (s.peerOf s.devAddr p.toNat ≠ (peer.toNat, pp.toNat) → t.portState p.toNat = PortSt.miscabled)) ∧
    (s.portState p.toNat = PortSt.training → ∃ t, exec (.portTrainingTimeout p) s = .next t ∧ t.portState p.toNat = PortSt.down ∧
      faultLogged s t 0x0C (0x310 + p.toNat) 2 (if s.modeBit 8 then 0 else 5) ∧ t.mem = s.mem) ∧
    (s.portState p.toNat ≠ PortSt.training → exec (.portTrainingComplete p peer pp ⟨rtt, skew⟩) s = .next s ∧
      exec (.portTrainingTimeout p) s = .next s) ∧
    (s.modeBit 8 = false → bitOf (s.reg (pctlOff p.toNat)) 0 = true → s.portExists p.toNat = true →
      (s.portState p.toNat = PortSt.down ∨ s.portState p.toNat = PortSt.failed) →
      ∃ t, exec (.portRetryTimer p) s = .next t ∧ t.portState p.toNat = PortSt.training) ∧
    ((s.modeBit 8 = true ∨ bitOf (s.reg (pctlOff p.toNat)) 0 = false) → exec (.portRetryTimer p) s = .next s)

/-- R320, R383: a port in use that fails becomes `FAILED` and logs a degraded fault of mechanism 8. -/
def Sys2Proof.Claims.portFailureResult : Prop :=
  ∀ (p : BitVec 4) (why : PortFault) (s : State),
    (s.portState p.toNat = PortSt.up ∨ s.portState p.toNat = PortSt.draining ∨ s.portState p.toNat = PortSt.training) →
    ((why = .replays → 8 ≤ (s.port p.toNat).replays) ∧ (why = .replayRate → 1000 < (s.port p.toNat).replaysMs)) →
    ∃ t, exec (.portFailure p why) s = .next t ∧ t.portState p.toNat = PortSt.failed ∧ t.port p.toNat = Port.reset ∧
      faultLogged s t 8 (0x310 + p.toNat) 2 4 ∧ t.mem = s.mem

/-- R313, R314, R316, R317, R319, R320, R347: the ports. -/
def Obligations.PortCommands : Prop :=
  Sys2Proof.Claims.portControl ∧ Sys2Proof.Claims.portTraining ∧ Sys2Proof.Claims.portFailureResult

/-- R318, R320, R321: a packet with a bad CRC is counted and answered with a negative acknowledgement; one out of order is discarded; one
in order is acknowledged on its link. One for this device gives its buffer space back at once and is received once, acknowledged end to
end; an acknowledgement releases what it names. One in transit whose next link is not up is discarded. -/
def Sys2Proof.Claims.packetArrivalResult : Prop :=
  ∀ (p : BitVec 4) (k : Packet) (s : State),
    (s.portState p.toNat = PortSt.up ∨ s.portState p.toNat = PortSt.draining) →
    let q := s.port p.toNat
    (crc32c k.body ≠ k.crc → ∃ t, exec (.packetArrival p k) s = .next t ∧ t.port p.toNat = q ∧
      t.runner.out = s.runner.out ++ [.nak p.toNat q.rxSeq] ∧ t.runner.received = s.runner.received ∧
      t.reg (Reg.RUN_PORT_CNT + 8 * p.toNat) = s.reg (Reg.RUN_PORT_CNT + 8 * p.toNat) + 1) ∧
    (crc32c k.body = k.crc → k.linkSeq ≠ q.rxSeq → exec (.packetArrival p k) s = .next s) ∧
    let held := SMap.get 0 q.rxHeld k.vc.toNat
    let r := min (pktFlits k) (128 - held)
    let sh := pktFlits k - r
    (crc32c k.body = k.crc → k.linkSeq = q.rxSeq → k.dest.toNat = s.devAddr → k.kind ≠ .ack →
      ∃ t, exec (.packetArrival p k) s = .next t ∧ (t.port p.toNat).rxSeq = q.rxSeq + 1 ∧
        t.runner.out = s.runner.out ++ [.linkAck p.toNat k.linkSeq, .credits p.toNat k.vc.toNat r sh, .ack k.src k.seq] ∧
        t.runner.received = s.runner.received ++ (if (k.src, k.seq) ∈ s.runner.received then [] else [(k.src, k.seq)]) ∧
        (∀ v, SMap.get 0 (t.port p.toNat).rxHeld v = SMap.get 0 q.rxHeld v) ∧ (t.port p.toNat).rxShared = q.rxShared ∧
        t.regs = s.regs ∧ t.mem = s.mem) ∧
    (crc32c k.body = k.crc → k.linkSeq = q.rxSeq → k.dest.toNat = s.devAddr → k.kind = .ack →
      let u := ((s.setPort p.toNat { q with rxSeq := q.rxSeq + 1, rxHeld := SMap.set 0 q.rxHeld k.vc.toNat (held + r),
                                            rxShared := q.rxShared + sh }).send (.linkAck p.toNat k.linkSeq)).drainFlits
        (some (p.toNat, k.vc.toNat, r, sh))
      let z : State := { u with runner := { u.runner with
        unacked := u.runner.unacked.filter fun x => ¬(x.pkt.dest = k.src ∧ x.pkt.seq = k.seq) } }
      calm z → exec (.packetArrival p k) s = .next z) ∧
    (crc32c k.body = k.crc → k.linkSeq = q.rxSeq → k.dest.toNat ≠ s.devAddr → s.portState (s.nextPort k) ≠ PortSt.up →
      ∃ t, exec (.packetArrival p k) s = .next t ∧ (t.port p.toNat).rxSeq = q.rxSeq + 1 ∧
        t.runner.out = s.runner.out ++ [.linkAck p.toNat k.linkSeq, .credits p.toNat k.vc.toNat r sh] ∧
        t.runner.received = s.runner.received ∧ t.regs = s.regs ∧ t.mem = s.mem)

/-- R319, R320: a negative acknowledgement replays what the peer has not received, in order; returned credits never pass
the buffers, and what comes with them acknowledges every packet before it. -/
def Sys2Proof.Claims.linkReplayAndCredits : Prop :=
  (∀ (p : BitVec 4) (n : BitVec 12) (s : State),
    (s.portState p.toNat = PortSt.up ∨ s.portState p.toNat = PortSt.draining) →
    let q := s.port p.toNat
    (retryFrom n q.retry = [] → exec (.linkNak p n) s = .next s) ∧
    (retryFrom n q.retry ≠ [] → q.replays < 8 → q.replaysMs < 1000 → ∃ t, exec (.linkNak p n) s = .next t ∧
      t.runner.out = s.runner.out ++ (retryFrom n q.retry).map (fun k => .packet p.toNat k) ∧
      (t.port p.toNat).retry = retryFrom n q.retry ∧ t.regs = s.regs)) ∧
  ∀ (p : BitVec 4) (vc : BitVec 3) (r sh : BitVec 14) (a : BitVec 12) (s : State),
    (s.portState p.toNat = PortSt.up ∨ s.portState p.toNat = PortSt.draining) → (s.port p.toNat).waiting = [] →
    let q := s.port p.toNat
    ∃ t, exec (.creditReturn p vc ⟨r, sh⟩ a) s = .next t ∧ t.runner.out = s.runner.out ∧ t.regs = s.regs ∧
      (t.port p.toNat).credit vc.toNat = min 128 ((s.port p.toNat).credit vc.toNat + r.toNat) ∧
      (t.port p.toNat).shared = min 7168 ((s.port p.toNat).shared + sh.toNat) ∧
      (∀ v, v ≠ vc.toNat → (t.port p.toNat).credit v = (s.port p.toNat).credit v) ∧
      (t.port p.toNat).retry = (if a = q.txSeq then [] else if retryFrom a q.retry = [] then q.retry else retryFrom a q.retry)

/-- R321, R324: a packet of this device that has not been acknowledged for 20 µs is sent again, and counted, over a route that is up,
where there is one; a link-state message enters the map once, newer ones only, and is passed on. -/
def Sys2Proof.Claims.endToEndAndLinkState : Prop :=
  (∀ (d : W16) (n : W64) (s : State),
    (∀ u, s.runner.unacked.find? (fun x => x.pkt.dest == d && x.pkt.seq == n) = some u →
      (u.stamp.toNat + 20000 ≤ s.cnt.toNat → ∀ q path, s.chooseRoute u.pkt = some (q :: path) →
        let z : State := { s with runner := { s.runner with
          unacked := s.runner.unacked.map fun x => if x = u then { x with stamp := s.cnt } else x } }
        exec (.e2eResend d n) s = .next ((z.count Reg.RUN_CNT_REROUTE 1).enqueuePkt q ⟨s.firstVc u.pkt (q :: path), u.pkt, none⟩)) ∧
      (s.cnt.toNat < u.stamp.toNat + 20000 ∨ s.chooseRoute u.pkt = none → exec (.e2eResend d n) s = .next s)) ∧
    ((∀ x ∈ s.runner.unacked, ¬(x.pkt.dest = d ∧ x.pkt.seq = n)) → exec (.e2eResend d n) s = .next s)) ∧
  ∀ (src : W16) (n : W64) (id : Nat) (up : Bool) (s : State),
    (∀ o, s.runner.lsSeen.find? (fun e => e.1 == src) = some (src, o) → n.toNat ≤ o.toNat →
      exec (.linkStateMessage src n [(id, up)]) s = .next s) ∧
    ((∀ o, s.runner.lsSeen.find? (fun e => e.1 == src) = some (src, o) → o.toNat < n.toNat) →
      ∃ t, exec (.linkStateMessage src n [(id, up)]) s = .next t ∧
        t.runner.lsSeen.find? (fun e => e.1 == src) = some (src, n) ∧ t.runner.out = s.runner.out ++ [.linkState src n [(id, up)]] ∧
        (id ∈ t.runner.links ↔ up = false) ∧ (∀ j, j ≠ id → (j ∈ t.runner.links ↔ j ∈ s.runner.links)) ∧
        (∀ d ∈ t.runner.down, t.hasRoute d = false))

/-- R325: a device found to be out of reach is noted once with a degraded fault, nothing more is sent to it, and every collective that names
it ends with all ones and nothing written. -/
def Sys2Proof.Claims.unreachableResult : Prop :=
  (∀ (d : W16) (s : State),
    (d.toNat ∈ s.runner.down → exec (.destinationUnreachable d) s = .next s) ∧
    (d.toNat ∉ s.runner.down → s.runner.colls = [] → s.runner.steps = [] →
      let u : State := { s with runner := { s.runner with down := s.runner.down ++ [d.toNat], unacked := s.runner.unacked.filter fun x => x.pkt.dest.toNat ≠ d.toNat } }
      let z := u.raiseFault { mech := 9, unit := 0x300, cls := .degraded, action := 0, detail := d.toNat }
      calm z → exec (.destinationUnreachable d) s = .next z ∧ faultLogged s z 9 0x300 2 0)) ∧
  ∀ (c : Coll) (s : State), c.phase ≠ .done →
    (c.fail s).findColl c.grp c.cseq = none ∧ (c.fail s).mem = s.mem ∧
    ∀ x ∈ c.local_, ∀ n k o a b de ok r, QEnt.work n (.coll k o a b de ok x.ser r) ∈ ((c.fail s).mould x.g).queue 4 →
      r = some (BitVec.allOnes 64)

/-- R17, R83, R327: a remote read gives the owner's bytes inside the region and zeros outside it, or an error response where one of its bytes
lies behind the wrapper of a fenced stack; a request that leaves the region is counted once. -/
def Sys2Proof.Claims.remoteRead : Prop :=
  ∀ (src : W16) (n : BitVec 6) (a : BitVec 48) (len : BitVec 10) (s : State), ∃ data t,
    exec (.remoteReadRequest src n a len) s = .next t ∧ data.length = min 512 len.toNat ∧ t.mem = s.mem ∧ t.moulds = s.moulds ∧
    let inside (b : Nat) : Prop := s.rgnAlloc n.toNat = true ∧ s.rgnBase n.toNat ≤ b ∧ b < s.rgnLimit n.toNat ∧ b < 0x10100000000
    ((∃ i, i < data.length ∧ inside (a.toNat + i) ∧ s.addrErrs (a.toNat + i) = true) →
      t.runner.out = s.runner.out ++ [.error src]) ∧
    ((∀ i, i < data.length → inside (a.toNat + i) → s.addrErrs (a.toNat + i) = false) →
      t.runner.out = s.runner.out ++ [.readData src a.toNat data]) ∧
    (∀ i, i < data.length → (inside (a.toNat + i) → data[i]? = some (s.mem.get (a.toNat + i))) ∧
      (¬inside (a.toNat + i) → data[i]? = some 0)) ∧
    ((∀ i, i < data.length → inside (a.toNat + i)) → t.reg Reg.MEM_CNT_VIOL = s.reg Reg.MEM_CNT_VIOL) ∧
    ((∃ i, i < data.length ∧ ¬inside (a.toNat + i)) → t.reg Reg.MEM_CNT_VIOL = s.reg Reg.MEM_CNT_VIOL + 1)

/-- R83, R318 to R321, R324, R325, R327: packets and messages of the fabric. -/
def Obligations.FabricPackets : Prop :=
  Sys2Proof.Claims.packetArrivalResult ∧ Sys2Proof.Claims.linkReplayAndCredits ∧ Sys2Proof.Claims.endToEndAndLinkState ∧
  Sys2Proof.Claims.unreachableResult ∧ Sys2Proof.Claims.remoteRead

/-- R11, R337, R338: the offset of this counter is half the difference of the two ways, less the lane skew (the rounding is the model's
choice, log entry 52). A follower takes its parent's exchange: locked, no `HOLD`, one deeper than the parent; only its first lock may move
the counter, and only forward; later ones slew it. A master with no lower one about it is locked at depth 0; one that hears a lower master
yields, follows it and reports `CONFLICT`. The device answers with its own advertisement. -/
def Sys2Proof.Claims.timeExchangeResult : Prop :=
  ∀ (p : BitVec 4) (dep : BitVec 5) (m : W16) (t1 t2 t3 t4 : W64) (s : State), s.portState p.toNat = PortSt.up →
    (∀ a ∈ s.runner.adv, a.1 = p.toNat) →
    let off := exchangeOffset t1 t2 t3 t4 (s.port p.toNat).skew
    let ns := off.toInt / 16
    let follows (t : State) : Prop := t.reg Reg.RUN_TIME_OFFSET = off.setWidth 64 ∧ t.runner.noMaster = false ∧
      t.runner.everLocked = true ∧ t.mem = s.mem ∧ t.moulds = s.moulds ∧
      (s.runner.everLocked = false → ns < 0 → t.cnt = s.cnt - BitVec.ofInt 64 ns) ∧
      ((s.runner.everLocked = true ∨ 0 ≤ ns) → t.cnt = s.cnt ∧
        t.runner.slew = if ns = 0 then 0 else if s.cnt.toNat < s.runner.slewAt.toNat + 10000 then s.runner.slew
          else if 0 < ns then -1 else 1)
    (off.toInt = (BitVec.ofInt 32 (((t2.toInt - t1.toInt) - (t4.toInt - t3.toInt)) / 2 - (s.port p.toNat).skew.toInt)).toInt) ∧
    (s.field Reg.RUN_TIME_CFG 1 0 = 0 → dep.toNat < 31 → m.toNat ≠ s.devAddr →
      ∃ t, exec (.timeExchange p dep m true ⟨t1, t2, t3, t4⟩) s = .next t ∧ follows t ∧
      t.reg Reg.RUN_TIME_STATUS = BitVec.ofNat 64 ((dep.toNat + 1) * 2 ^ 16 + p.toNat * 2 ^ 8 + 2)) ∧
    ((s.field Reg.RUN_TIME_CFG 1 0 = 1 ∨ s.field Reg.RUN_TIME_CFG 1 0 = 2) →
      (s.devAddr ≤ m.toNat → bitOf (s.reg Reg.RUN_TIME_STATUS) 0 = false →
        ∃ t, exec (.timeExchange p dep m true ⟨t1, t2, t3, t4⟩) s = .next t ∧ t.reg Reg.RUN_TIME_STATUS = 3 ∧ t.cnt = s.cnt) ∧
      (m.toNat < s.devAddr → dep.toNat < 31 → ∃ t, exec (.timeExchange p dep m true ⟨t1, t2, t3, t4⟩) s = .next t ∧ follows t ∧
        t.reg Reg.RUN_TIME_STATUS = BitVec.ofNat 64 ((dep.toNat + 1) * 2 ^ 16 + p.toNat * 2 ^ 8 + 8 + 2))) ∧
    ∃ t d k h, exec (.timeExchange p dep m true ⟨t1, t2, t3, t4⟩) s = .next t ∧
      t.runner.out = s.runner.out ++ [.timeAdv p.toNat d k h s.cnt] ∧ d = s.field Reg.RUN_TIME_STATUS 20 16 ∧
      (bitOf (s.reg Reg.RUN_TIME_STATUS) 0 = true → k = s.devAddr) ∧
      (h = true ↔ bitOf (s.reg Reg.RUN_TIME_STATUS) 0 = true ∨ bitOf (s.reg Reg.RUN_TIME_STATUS) 1 = true)

/-- R337: 20 ms without a master a follower runs free: `LOCK` 0, `HOLD` 0, `DEPTH` 31, no slew; said once, and never for a master. -/
def Sys2Proof.Claims.noMasterResult : Prop :=
  ∀ s : State,
    (s.masterRole = false → s.runner.noMaster = false → s.runner.masterSeen.toNat + 20000000 ≤ s.cnt.toNat →
      ∃ t, exec .noMasterTimeout s = .next t ∧ t.reg Reg.RUN_TIME_STATUS = 0x1F0000 ∧ t.runner.noMaster = true ∧
        t.runner.slew = 0 ∧ t.cnt = s.cnt ∧ exec .noMasterTimeout t = .next t) ∧
    (s.masterRole = true → exec .noMasterTimeout s = .next s)

/-- R11, R362: PTP disciplines a device whose role is 2, in its domain. A one-step `Sync`, or the `Follow_Up` of a two-step one, is followed by
a delay request; its response gives the offset, half the difference of the two ways: before the first heat after a seed the counter may
step forward, later it is slewed (how fast within 100 ppm, log entry 52). A lost grandmaster clears `PLOCK` and leaves the counter free. -/
def Sys2Proof.Claims.ptpResult : Prop :=
  (∀ (m : PtpMsg) (dom : Byte) (s : State), (s.field Reg.RUN_TIME_CFG 1 0 ≠ 2 ∨ s.field Reg.HOST_PTP_CFG 7 0 ≠ dom.toNat) →
    exec (.ptpMessage m dom) s = .next s) ∧
  (∀ (dom : Byte) (s : State), s.field Reg.RUN_TIME_CFG 1 0 = 2 → s.field Reg.HOST_PTP_CFG 7 0 = dom.toNat →
    let locked (t : State) : Prop := bitOf (t.reg Reg.HOST_PTP_CFG) 8 = true ∧ fld (t.reg Reg.HOST_PTP_CFG) 7 0 = dom.toNat ∧
      t.mem = s.mem ∧ t.moulds = s.moulds
    let asks (t : State) (u1 u2 : W64) : Prop := locked t ∧ t.cnt = s.cnt ∧ t.runner = s.runner ∧
      t.host.out = s.host.out ++ [.delayReq s.host.ptp.seq s.cnt] ∧ t.host.ptp = ⟨none, s.host.ptp.seq + 1, some (s.host.ptp.seq, u1, u2, s.cnt)⟩
    (∀ q u1, ∃ t, exec (.ptpMessage (.sync q false u1) dom) s = .next t ∧ asks t u1 s.cnt) ∧
    (∀ q u1, ∃ t, exec (.ptpMessage (.sync q true u1) dom) s = .next t ∧ locked t ∧ t.cnt = s.cnt ∧ t.runner = s.runner ∧
      t.host = { s.host with ptp := { s.host.ptp with sync := some (q, s.cnt) } }) ∧
    (∀ q u1 u2, s.host.ptp.sync = some (q, u2) → ∃ t, exec (.ptpMessage (.followUp q u1) dom) s = .next t ∧ asks t u1 u2) ∧
    (∀ q u1, (∀ u2, s.host.ptp.sync ≠ some (q, u2)) → ∃ t, exec (.ptpMessage (.followUp q u1) dom) s = .next t ∧ locked t ∧
      t.cnt = s.cnt ∧ t.runner = s.runner ∧ t.host = s.host) ∧
    (∀ n u1 u2 u3 u4, s.host.ptp.req = some (n, u1, u2, u3) →
      let ns := ((u2 - u1).toInt - (u4 - u3).toInt) / 2
      ∃ t, exec (.ptpMessage (.delayResp (BitVec.ofNat 16 n) u4) dom) s = .next t ∧ locked t ∧ t.host.ptp.req = none ∧
        t.host.out = s.host.out ∧
        (ns < 0 → s.heats.lastSince = none → t.cnt = s.cnt - BitVec.ofInt 64 ns ∧ t.runner = s.runner) ∧
        (0 ≤ ns ∨ s.heats.lastSince ≠ none → t.cnt = s.cnt ∧
          t.runner.slew = if ns = 0 then 0 else if s.cnt.toNat < s.runner.slewAt.toNat + 10000 then s.runner.slew
            else if 0 < ns then -1 else 1)) ∧
    (∀ q u4, (∀ n u1 u2 u3, s.host.ptp.req = some (n, u1, u2, u3) → n % 2 ^ 16 ≠ q.toNat) →
      ∃ t, exec (.ptpMessage (.delayResp q u4) dom) s = .next t ∧ locked t ∧ t.cnt = s.cnt ∧ t.runner = s.runner ∧
        t.host = s.host)) ∧
  ∀ s : State, ∃ t, exec .ptpGrandmasterLoss s = .next t ∧ bitOf (t.reg Reg.HOST_PTP_CFG) 8 = false ∧ t.cnt = s.cnt ∧
    (s.field Reg.RUN_TIME_CFG 1 0 = 2 → t.runner.slew = 0) ∧ t.mem = s.mem ∧ t.moulds = s.moulds ∧ t.host = s.host

/-- R11: the counter advances by 6 or 7 counts in a reference period, by 32 in five, one more or less where it is slewed; a tick
changes no memory. -/
def Sys2Proof.Claims.systemCounter : Prop :=
  (∀ s : State, s.pwr.standby = true → ∃ t, exec .systemCounterTick s = .next t ∧
    t.cnt = s.cnt + BitVec.ofNat 64 ((Int.ofNat (tickStep s.phase) + s.runner.slew).toNat) ∧ t.phase = (s.phase + 1) % 5 ∧
    t.mem = s.mem ∧ t.runner.slew = 0) ∧
  (∀ p, tickStep p = 6 ∨ tickStep p = 7) ∧
  ∀ p, tickStep p + tickStep (p + 1) + tickStep (p + 2) + tickStep (p + 3) + tickStep (p + 4) = 32

/-- R11, R337, R338: time. -/
def Obligations.SystemTime : Prop :=
  Sys2Proof.Claims.timeExchangeResult ∧ Sys2Proof.Claims.noMasterResult ∧ Sys2Proof.Claims.ptpResult ∧
  Sys2Proof.Claims.systemCounter

/-! ## What members of a group send -/

/-- R331, R335, R381: a member's message (`collectiveHeader`, `exponentCode`, `alignmentCode`, `partialWindow`, `resultGather`: the commands that have a
`collKeyOf`) goes to its open collective once; it is kept where the collective has not issued here, and
counted where it has ended, comes twice or names no other member. -/
def Sys2Proof.Claims.collectiveMessages : Prop :=
  (∀ (i : Instr) (k : Nat × Nat × Nat) (s : State), collKeyOf i = some k →
    (s.findColl k.1 k.2.1 = none → (∃ f ∈ s.runner.finished, f.1 = k.1 ∧ f.2.1 = k.2.1) →
      calm (s.count Reg.RUN_CNT_VIOL 1) → exec i s = .next (s.count Reg.RUN_CNT_VIOL 1)) ∧
    (s.findColl k.1 k.2.1 = none → (∀ f ∈ s.runner.finished, ¬(f.1 = k.1 ∧ f.2.1 = k.2.1)) →
      let z : State := { s with runner := { s.runner with early := s.runner.early ++ [i] } }
      calm z → exec i s = .next z) ∧
    ∀ c, s.findColl k.1 k.2.1 = some c →
      ((c.m s ≤ k.2.2 ∨ k.2.2 = c.rank s ∨ c.take i = none) → calm (s.count Reg.RUN_CNT_VIOL 1) →
        exec i s = .next (s.count Reg.RUN_CNT_VIOL 1)) ∧
      ∀ d, k.2.2 < c.m s → k.2.2 ≠ c.rank s → c.take i = some d →
        let z := (s.putColl d).advanceColl k.1 k.2.1
        calm z → exec i s = .next z) ∧
  ∀ (c d : Coll) (i : Instr), c.take i = some d → d.take i = none ∧ d.kind = c.kind ∧ d.phase = c.phase ∧ d.local_ = c.local_ ∧
    d.dd = c.dd ∧ d.grp = c.grp ∧ d.cseq = c.cseq

/-- R330, R335: a waiting collective starts once slots and a place are free, with exports also the writer has issued; one that has waited for slots or headers beyond
`RUN_CTO.LIMIT` is voided: 0 posted, nothing written, counted. -/
def Sys2Proof.Claims.collectiveSlotsAndTimeout : Prop :=
  ∀ (grp : Byte) (cseq : W32) (s : State) (c : Coll), s.findColl grp.toNat cseq.toNat = some c →
    let shaped : Prop := c.xsrc = true → c.kind.reduces = true → c.dd ≠ none
    (c.phase = .slots → shaped → c.slots ≤ s.bufFree → s.openColls < 64 →
      let z := (s.putColl { c with phase := .headers }).advanceColl grp.toNat cseq.toNat
      calm z → exec (.collectiveSlotGrant grp cseq) s = .next z) ∧
    ((c.phase ≠ .slots ∨ ¬shaped ∨ s.bufFree < c.slots ∨ 64 ≤ s.openColls) → calm s → exec (.collectiveSlotGrant grp cseq) s = .next s) ∧
    (s.findStep cseq.toNat = none →
      (s.ctoPassed c.since = true → (c.phase = .slots ∨ c.phase = .headers) →
        let z := c.void s true
        z.findColl grp.toNat cseq.toNat = none ∧ z.mem = s.mem ∧ (c.grp, c.cseq, c.heat, 0) ∈ z.runner.finished ∧
        z.reg Reg.RUN_CNT_VIOL = s.reg Reg.RUN_CNT_VIOL + 1 ∧ z.reg Reg.RUN_CNT_CTO = s.reg Reg.RUN_CNT_CTO + 1 ∧
        (calm z → exec (.collectiveTimeout grp cseq) s = .next z)) ∧
      (s.ctoPassed c.since = false → calm s → exec (.collectiveTimeout grp cseq) s = .next s))

/-- R122, R334: an export of a mould waits while its collective waits for slots, for the writer's shape or for room; one whose collective
is not open contributes nothing and is counted; otherwise it is taken, or refused and counted. -/
def Sys2Proof.Claims.exportArrivalResult : Prop :=
  ∀ (g : BitVec 8) (s : State) (x : ExportMsg), s.runner.exports.find? (fun y => y.g == g.toNat) = some x →
    let u : State := { s with runner := { s.runner with exports := dropFirst (fun y => y.g == g.toNat) s.runner.exports } }
    (s.findColl x.grp x.cseq = none → calm (u.count Reg.RUN_CNT_VIOL 1) →
      exec (.exportArrival g) s = .next (u.count Reg.RUN_CNT_VIOL 1)) ∧
    ∀ c, s.findColl x.grp x.cseq = some c →
      ((c.phase = .slots ∨ c.dd = none ∨ s.bufFree < x.need) → calm s → exec (.exportArrival g) s = .next s) ∧
      (c.phase ≠ .slots → c.dd ≠ none → x.need ≤ s.bufFree →
        let r := c.takeExport u x
        let z := if r.2 then (u.putColl r.1).advanceColl x.grp x.cseq else u.count Reg.RUN_CNT_VIOL 1
        calm z → exec (.exportArrival g) s = .next z)

/-- R122, R330, R331, R334, R335: what reaches an open collective. -/
def Obligations.CollectiveMessages : Prop :=
  Sys2Proof.Claims.collectiveMessages ∧ Sys2Proof.Claims.collectiveSlotsAndTimeout ∧ Sys2Proof.Claims.exportArrivalResult

/-- R340: a member's counts enter an open dispatch once; with no dispatch of that number here they are kept; late or repeated ones are
counted. -/
def Sys2Proof.Claims.dispatchCounts : Prop :=
  ∀ (rseq : W32) (dev : W16) (base : W32) (cs : List W32) (s : State),
    let i := Instr.dispatchCount rseq dev base cs
    (s.findStep rseq.toNat = none →
      let z : State := { s with runner := { s.runner with early := s.runner.early ++ [i] } }
      calm z → exec i s = .next z) ∧
    ∀ r, s.findStep rseq.toNat = some r →
      ((r.phase = .counts ∨ r.phase = .space) → (∀ c ∈ r.counts, c.1 ≠ dev.toNat) →
        let z := (s.putStep { r with counts := r.counts ++ [(dev.toNat, base.toNat, cs.map (·.toNat))] }).advanceStep rseq.toNat
        calm z → exec i s = .next z) ∧
      ((r.phase ≠ .counts ∧ r.phase ≠ .space) ∨ (∃ c ∈ r.counts, c.1 = dev.toNat) → calm (s.count Reg.RUN_CNT_VIOL 1) →
        exec i s = .next (s.count Reg.RUN_CNT_VIOL 1))

/-- R341, R343: a row for an accepted slot of an expert hosted here lands there once; any other is counted and writes nothing. -/
def Sys2Proof.Claims.dispatchRows : Prop :=
  ∀ (rseq : W32) (e : BitVec 7) (slot : W32) (tag : RowTag) (codes scales : List Byte) (s : State) (r : RouteStep),
    let i := Instr.dispatchRow rseq e slot tag codes scales
    s.findStep rseq.toNat = some r →
    (r.phase = .rows → s.expertDev r.etab e.toNat = s.devAddr → slot.toNat < r.accepted e.toNat →
      (e.toNat, slot.toNat) ∉ r.arrivals →
      let cs := unpackCodes (codeWidth (imgFld r.x 0 63 60)) ((imgExts r.x).getD 0 1) codes
      let z := ((r.land s e.toNat slot.toNat tag cs scales).putStep
        { r with arrivals := r.arrivals ++ [(e.toNat, slot.toNat)] }).advanceStep rseq.toNat
      calm z → exec i s = .next z) ∧
    (r.phase ≠ .counts → r.phase ≠ .space →
      (r.phase ≠ .rows ∨ s.expertDev r.etab e.toNat ≠ s.devAddr ∨ r.accepted e.toNat ≤ slot.toNat ∨
        (e.toNat, slot.toNat) ∈ r.arrivals) → calm (s.count Reg.RUN_CNT_VIOL 1) →
      exec i s = .next (s.count Reg.RUN_CNT_VIOL 1))

/-- R344: a row that comes back for a choice sent out is held for `COMBINE`; one for no such choice is counted. -/
def Sys2Proof.Claims.returnedRows : Prop :=
  ∀ (rseq token : W32) (rank : BitVec 3) (codes : List Byte) (s : State) (r : RouteStep),
    let i := Instr.returnRow rseq token rank codes
    s.findStep rseq.toNat = some r →
    (∀ c, r.choices.find? (fun c => c.token == token.toNat && c.rank == rank.toNat) = some c → c.st = .sent →
      let hdr := s.reg (Reg.RUN_ETAB_HDR + 0x2000 * r.etab)
      let cs := unpackCodes (codeWidth (fld hdr 31 28)) (fld hdr 23 0) codes
      let z := s.putStep { r with choices := r.choices.map fun x =>
        if x.token = c.token ∧ x.rank = c.rank then { x with st := .returned cs } else x }
      calm z → exec i s = .next z) ∧
    ((∀ c, r.choices.find? (fun c => c.token == token.toNat && c.rank == rank.toNat) = some c → c.st ≠ .sent) →
      calm (s.count Reg.RUN_CNT_VIOL 1) → exec i s = .next (s.count Reg.RUN_CNT_VIOL 1))

/-- R340, R341, R343, R344: what reaches an open routing step. -/
def Obligations.RoutingMessages : Prop :=
  Sys2Proof.Claims.dispatchCounts ∧ Sys2Proof.Claims.dispatchRows ∧ Sys2Proof.Claims.returnedRows

/-! ## Frames, packets and sessions -/

namespace Sys2Proof.Claims

/-- The device answers frames of this length and these tags: the host link is up (R349). -/
def frameTaken (f : Frame) (s : State) : Prop :=
  bitOf (s.reg Reg.HOST_STATUS) 0 = true ∧ f.len.toNat ≤ 9216 ∧ f.tags.toNat ≤ 1

/-- A holder's command arrives in `READY` with `AT` 0 (R357, R359), and u is the state once its packet has been taken (R355, R358). -/
def holderNow (c : CmdHdr) (s u : State) : Prop :=
  s.pwr.st = .ready ∧ c.peer = none ∧ s.openSession c.sid = true ∧ c.at_ = 0 ∧ s.holds c.sid = true ∧
    u = (s.touch c.sid).count Reg.HOST_CNT_VIOL (b2n c.rsv)

/-- u once an order of target k by c has been noted for its window, where none had been (R361). -/
def ordered (k : Nat) (c : CmdHdr) (u : State) : State :=
  { u with host := { u.host with orders := [⟨k, u.cnt.toNat / 1000, 2, c.psn⟩] } }

/-- From s to t an event of this type and unit is stored for the host (R352, R353). -/
def eventPosted (s t : State) (evt unit : Nat) : Prop :=
  ∃ (e : W512) (l : List HostOut), t.host.out = s.host.out ++ .event e :: l ∧ e.toNat % 2 ^ 16 = evt ∧ e.toNat / 2 ^ 32 % 2 ^ 16 = unit

/-- The input log takes an entry now: it has none, or room, and nothing waits for it (R367). -/
def logOpen (s : State) : Prop := s.ilogFull = false ∧ s.host.waitingIn = []

end Sys2Proof.Claims

/-- R349: ARP, neighbour discovery and echo are answered; a Goengo frame for the port in use is a Goengo packet; everything else, and
every frame that is too long, carries more than one tag or meets a link that is down, is discarded. -/
def Sys2Proof.Claims.ethernetFrames : Prop :=
  ∀ (f : Frame) (s : State),
    (frameTaken f s →
      (f.kind = .arp ∨ f.kind = .neighbour ∨ f.kind = .echo →
        exec (.ethernetFrame f) s = .next (s.toHost (.frame f.kind f.payload))) ∧
      (f.kind = .pause ∨ f.kind = .other → exec (.ethernetFrame f) s = .next s) ∧
      (f.kind = .goengo → f.port.toNat ≠ s.field Reg.HOST_UDP 15 0 → exec (.ethernetFrame f) s = .next s) ∧
      (f.kind = .goengo → f.port.toNat = s.field Reg.HOST_UDP 15 0 → s.listening = true → ∀ p, parseGoengo f.payload = some p →
        exec (.ethernetFrame f) s = exec (.goengoPacket p) s)) ∧
    (¬frameTaken f s → exec (.ethernetFrame f) s = .next s)

/-- R350, R355, R356: a packet of a session that is not open, or whose tag fails, is discarded and counted; one packet of class 1 that
is next in order and holds a whole command is taken, its command runs, and what has been received is acknowledged. -/
def Sys2Proof.Claims.goengoPackets : Prop :=
  (∀ (p : GoengoPkt) (s : State), s.listening = true → p.ver = 1 → 1 ≤ p.cls.toNat → p.cls.toNat ≤ 5 → p.payload.length ≤ 8192 →
    (s.host.session p.sid = none → exec (.goengoPacket p) s = .next (s.count Reg.HOST_CNT_BADPKT 1)) ∧
    ∀ x, s.host.session p.sid = some x →
      (openPacket x p = none → exec (.goengoPacket p) s = .next (s.count Reg.HOST_CNT_BADPKT 1)) ∧
      ∀ b i, openPacket x p = some b → b ≠ [] → p.cls = 1 → p.ackv = false → p.last = true →
        (x.chan 1).rxHave = [] → p.psn = (x.chan 1).rxNext → p.psn.toNat + 1 < 2 ^ 48 →
        (∀ y ∈ s.host.sessions, y.sid = p.sid → y = x) →
        parseCommand p.sid p.psn.toNat b = some i →
          let y := ({ x with last := s.cnt } : Session).setChan { x.chan 1 with rxNext := p.psn + 1 }
          exec (.goengoPacket p) s = .next (((s.setSessions (s.host.sessions.map fun z => if z.sid = p.sid then y else z)).runMessage
            i).acknowledge p.sid 1)) ∧
  ∀ (i : Instr) (c : CmdHdr) (s : State), cmdHdr i = some c → exec i s = .next (s.runMessage i)

/-- R351: every packet of the class that has waited `RTO` µs for its acknowledgement is sent again, and no other. -/
def Sys2Proof.Claims.retransmission : Prop :=
  ∀ (sid : W32) (cls : BitVec 4) (s : State),
    (s.host.session sid = none → exec (.hostRetransmit sid cls) s = .next s) ∧
    ∀ x, s.host.session sid = some x →
      let due (u : TxPkt) : Bool := decide (u.sent.toNat + 1000 * s.field Reg.HOST_CFG 47 32 ≤ s.cnt.toNat)
      ∃ t, exec (.hostRetransmit sid cls) s = .next t ∧ t.regs = s.regs ∧ t.mem = s.mem ∧
        t.host.sessions.map (·.sid) = s.host.sessions.map (·.sid) ∧
        t.host.out = s.host.out ++ ((x.chan cls.toNat).unacked.filter due).map fun u =>
          .packet sid cls.toNat (s.host.wire x cls.toNat true u.last u.psn u.payload)

/-- R354, R355: `HELLO` starts a handshake under the next session number and is answered by `ACCEPT`, in a packet of class 0, while fewer than
eight sessions are open; `FINISH` opens the session with the keys of R355 where both signatures verify and the keys are trusted, and
otherwise ends it and is counted. What the device draws and signs is opaque (log entry 62). -/
def Sys2Proof.Claims.handshakes : Prop :=
  (∀ (a b n e m : List Byte) (s : State),
    (s.hostReady = true → s.host.openCount < 8 →
      let k := s.host.nextSid
      let sid : W32 := BitVec.ofNat 32 k
      let th := sha3 (a ++ b ++ n ++ e ++ m)
      let kem := Config.mlkemEncaps k b
      let acc := Config.x25519Public k ++ kem.1 ++ Config.deviceNonce k ++ leBytes 4 k ++ Config.identityEd25519 th ++ Config.identityMldsa th
      let p : GoengoPkt := { ver := 1, cls := 0, ackv := false, retx := false, last := true, rsv0 := 0, sid := 0, psn := 0, ack := 0,
                             sack := 0, rsv3 := 0, payload := acc, tag := [] }
      ∃ (t : State) (x : Session), exec (.hello a b n e m) s = .next t ∧
        t.host.sessions = s.host.sessions ++ [x] ∧ x.opened = false ∧ x.sid = sid ∧ x.hostEd = e ∧
        x.hostMl = m ∧ x.transcript = a ++ b ++ n ++ e ++ m ++ acc ∧ x.ikm = Config.x25519Shared k a ++ kem.2 ∧ x.chans = [] ∧
        t.host.nextSid = k + 1 ∧ t.regs = s.regs ∧ t.mem = s.mem ∧
        t.host.out = s.host.out ++ [.accept sid (Config.x25519Public k) kem.1 (Config.deviceNonce k) (Config.identityEd25519 th)
          (Config.identityMldsa th), .packet 0 0 (goengoHeader p ++ acc)]) ∧
    ((s.hostReady = false ∨ 8 ≤ s.host.openCount) → exec (.hello a b n e m) s = .next s)) ∧
  ∀ (sid : W32) (sa sb : List Byte) (s : State),
    ((∀ x ∈ s.host.sessions, x.sid = sid → x.opened = true) → exec (.finish sid sa sb) s = .next s) ∧
    ∀ (x : Session), s.host.sessions.find? (fun x => x.sid == sid && !x.opened) = some x →
    let ok : Prop := Config.ed25519Verify x.hostEd (sha3 x.transcript) sa = true ∧
      Config.mldsaVerify x.hostMl (sha3 x.transcript) sb = true ∧ (s.pwr.st = .bootwait ∨ (x.hostEd, x.hostMl) ∈ s.host.trust)
    (ok → s.host.openCount < 8 → (∀ y ∈ s.host.sessions, y.sid = sid → y = x) → ∃ (t : State) (y : Session),
      exec (.finish sid sa sb) s = .next t ∧ y ∈ t.host.sessions ∧ y.sid = sid ∧ y.opened = true ∧
      y.keys = sessionKeys (sha3 (x.transcript ++ (sa ++ sb))) x.ikm ∧ t.regs = s.regs ∧ t.mem = s.mem) ∧
    (¬ok ∨ 8 ≤ s.host.openCount →
      exec (.finish sid sa sb) s = .next ((s.setSessions (s.host.sessions.filter fun y => y.sid ≠ sid)).count Reg.HOST_CNT_AUTHFAIL 1))

/-- R355, R359: ten seconds without a valid packet end a session, and its lease with it. -/
def Sys2Proof.Claims.idleSessions : Prop :=
  ∀ (sid : W32) (s : State) (x : Session), s.session sid = some x →
    (x.last.toNat + 10000000000 ≤ s.cnt.toNat → ∃ t : State, exec (.sessionIdleTimeout sid) s = .next t ∧ t.session sid = none ∧
      t.mem = s.mem ∧ (x.opened = true → s.leaseSid = sid.toNat → t.leaseSid = 0) ∧
      ((x.opened = false ∨ s.leaseSid ≠ sid.toNat) → t.leaseSid = s.leaseSid)) ∧
    (s.cnt.toNat < x.last.toNat + 10000000000 → exec (.sessionIdleTimeout sid) s = .next s)

/-- R391: the host link comes up and ends the relay; its loss is masked, and sessions go on through a relay where there is one. -/
def Sys2Proof.Claims.hostLink : Prop :=
  (∀ s : State, (bitOf (s.reg Reg.HOST_STATUS) 0 = true → exec .hostLinkUp s = .next s) ∧
    (bitOf (s.reg Reg.HOST_STATUS) 0 = false → ∃ t : State, exec .hostLinkUp s = .next t ∧ bitOf (t.reg Reg.HOST_STATUS) 0 = true ∧
      t.host.relay = none ∧ (s.host.relay ≠ none → bitOf (t.reg Reg.HOST_STATUS) 2 = false) ∧ t.mem = s.mem)) ∧
  ∀ (d : Option W16) (s : State), (bitOf (s.reg Reg.HOST_STATUS) 0 = false → exec (.hostLinkLoss d) s = .next s) ∧
    (bitOf (s.reg Reg.HOST_STATUS) 0 = true → ∃ t : State, exec (.hostLinkLoss d) s = .next t ∧ bitOf (t.reg Reg.HOST_STATUS) 0 = false ∧
      (d ≠ none → t.host.relay = d ∧ bitOf (t.reg Reg.HOST_STATUS) 2 = true) ∧ t.mem = s.mem ∧ t.moulds = s.moulds)

/-- R349 to R351, R354 to R356, R391: the host port below its commands. -/
def Obligations.HostSessions : Prop :=
  Sys2Proof.Claims.ethernetFrames ∧ Sys2Proof.Claims.goengoPackets ∧ Sys2Proof.Claims.retransmission ∧
  Sys2Proof.Claims.handshakes ∧ Sys2Proof.Claims.idleSessions ∧ Sys2Proof.Claims.hostLink

/-! ## Host commands -/

/-- R356 to R358: a command with `AT` in the past is answered `LATE` and has no effect; one with `AT` ahead is deferred; one of an unknown
session is discarded and counted; one whose `AT` the counter has reached takes effect at that stamp. -/
def Sys2Proof.Claims.commandArrival : Prop :=
  (∀ (i : Instr) (c : CmdHdr) (s : State), cmdHdr i = some c → s.pwr.st = .ready → c.peer = none →
    (s.openSession c.sid = false → exec i s = .next (s.count Reg.HOST_CNT_BADPKT 1)) ∧
    (s.openSession c.sid = true → orderTarget i = none →
      (∀ h f, i ≠ .launch c h f) → (∀ a d, i ≠ .dataIn c a d) → (∀ o d, i ≠ .bootDataIn c o d) → i ≠ .resetStagedBoot c →
      let u := (s.touch c.sid).count Reg.HOST_CNT_VIOL (b2n c.rsv)
      (c.at_ ≠ 0 → c.at_.toNat ≤ s.cnt.toNat → exec i s = .next (u.reply c (opOf i) Reply.late [])) ∧
      (s.cnt.toNat < c.at_.toNat →
        exec i s = .next { u with host := { u.host with deferred := insertDeferred (c.at_, i) u.host.deferred } }))) ∧
  ∀ (s : State) (t : W64) (i : Instr), s.host.deferred = [(t, i)] →
    (t.toNat ≤ s.cnt.toNat → exec .commandAtEffect s =
      .next (({ s with host := { s.host with deferred := [] } } : State).at_ t fun u => u.effect i)) ∧
    (s.cnt.toNat < t.toNat → exec .commandAtEffect s = .next s)

/-- R350, R355, R358: a reply goes to its session once, in a packet of class 1 that holds its operation, status, `PSN` and results, and changes
no register and no memory. -/
def Sys2Proof.Claims.replies : Prop :=
  ∀ (s : State) (c : CmdHdr) (op st : Nat) (res : List W64) (x : Session), c.peer = none → s.host.session c.sid = some x →
    (∀ x ∈ s.host.sessions, x.sid = c.sid → (x.chan 1).txNext.toNat + 1 < 2 ^ 48 ∧ ∀ k ∈ x.chans, k.txNext.toNat + 1 < 2 ^ 48) →
    res.length ≤ 1000 →
    (s.reply c op st res).host.out = s.host.out ++ [.reply c.sid op st c.psn res, .packet c.sid 1
      (s.host.wire x 1 false true (x.chan 1).txNext
        (leBytes 2 op ++ leBytes 1 st ++ leBytes 5 0 ++ leBytes 8 c.psn.toNat ++ res.flatMap fun w => leBytes 8 w.toNat))] ∧ (s.reply c op st res).regs = s.regs ∧
    (s.reply c op st res).mem = s.mem ∧ (s.reply c op st res).heats = s.heats

/-- R17, R264, R352, R356, R357: the holder reads a register, writes one, and reads memory behind a prefix of 16 B; an offset that is not a
multiple of 8, no bytes, or bytes outside one allocated region are counted once as a violation. -/
def Sys2Proof.Claims.registerAndMemoryCommands : Prop :=
  (∀ (c : CmdHdr) (off : W32) (s u : State), holderNow c s u →
    (off.toNat % 8 = 0 → exec (.rdreg c off) s = .next (u.reply c 1 0 [devView u off.toNat])) ∧
    (off.toNat % 8 ≠ 0 → exec (.rdreg c off) s = .next (u.cmdViol c)) ∧
    (u.cmdViol c).reg Reg.HOST_CNT_VIOL = s.reg Reg.HOST_CNT_VIOL + 1) ∧
  (∀ (c : CmdHdr) (off : W32) (v : W64) (s u : State), holderNow c s u →
    (off.toNat % 8 ≠ 0 → exec (.wrreg c off v) s = .next (u.cmdViol c)) ∧
    (off.toNat % 8 = 0 → s.host.orders = [] → logOpen u →
      let w := ordered off.toNat c u
      let l := w.logInput 2 off.toNat (leBytes 8 v.toNat) w.heats.key
      exec (.wrreg c off v) s = .next ((devWrite l off.toNat v).reply c 2 0 [])) ∧
    (∀ o, off.toNat % 8 = 0 → s.host.orders = [o] → o.target = off.toNat → o.window = s.cnt.toNat / 1000 → c.psn.ult o.psn = true →
      exec (.wrreg c off v) s = .next (u.count Reg.HOST_CNT_LOST 1))) ∧
  ∀ (c : CmdHdr) (a : BitVec 48) (n : W32) (s u : State), holderNow c s u →
    let bs := s.mem.gets a.toNat n.toNat
    (0 < n.toNat → s.inRegion a.toNat n.toNat (fun _ => true) = true → s.rangeErrs a.toNat n.toNat = false →
      exec (.rdmem c a n) s = .next (((u.toHost (.dataOut c.sid a.toNat bs)).transmit c.sid 3 .other
        (leBytes 8 a.toNat ++ leBytes 4 n.toNat ++ leBytes 4 0 ++ bs)).reply c 3 0 [])) ∧
    (0 < n.toNat → s.inRegion a.toNat n.toNat (fun _ => true) = true → s.rangeErrs a.toNat n.toNat = true →
      exec (.rdmem c a n) s = .next (u.toHost (.error c.sid 3 c.psn))) ∧
    (n.toNat = 0 ∨ s.inRegion a.toNat n.toNat (fun _ => true) = false → exec (.rdmem c a n) s = .next (u.cmdViol c))

/-- R359: `ACQUIRE` of a free lease and `RENEW` by the holder give the lease for the duration; a non-holder is answered `HELD`; `RELEASE`
ends it; a duration outside 1 ms to 60 s is a violation; the lease ends at its expiry. -/
def Sys2Proof.Claims.leaseCommands : Prop :=
  (∀ (c : CmdHdr) (d : W32) (s : State), s.pwr.st = .ready → c.peer = none → s.openSession c.sid = true → c.at_ = 0 → s.leaseSid = 0 →
    let u := (s.touch c.sid).count Reg.HOST_CNT_VIOL (b2n c.rsv)
    (1000 ≤ d.toNat → d.toNat ≤ 60000000 → ∃ w : State, exec (.leaseAcquire c d) s =
        .next (w.reply c 0x10 0 [c.sid.setWidth 64, s.cnt + BitVec.ofNat 64 (1000 * d.toNat)]) ∧ w.leaseSid = c.sid.toNat ∧
        w.reg Reg.HOST_LEASE_EXP = s.cnt + BitVec.ofNat 64 (1000 * d.toNat) ∧ w.mem = s.mem ∧ w.cnt = s.cnt) ∧
    (d.toNat < 1000 ∨ 60000000 < d.toNat → exec (.leaseAcquire c d) s = .next (u.cmdViol c)) ∧
    (1000 ≤ d.toNat → d.toNat ≤ 60000000 → exec (.leaseRenew c d) s = .next (u.reply c 0x10 5 [0, 0]))) ∧
  (∀ (c : CmdHdr) (d : W32) (s u : State), holderNow c s u → s.host.orders = [] → 1000 ≤ d.toNat → d.toNat ≤ 60000000 →
    ∃ w : State, exec (.leaseRenew c d) s = .next (w.reply c 0x10 0 [c.sid.setWidth 64, s.cnt + BitVec.ofNat 64 (1000 * d.toNat)]) ∧
      w.leaseSid = c.sid.toNat ∧ w.reg Reg.HOST_LEASE_EXP = s.cnt + BitVec.ofNat 64 (1000 * d.toNat)) ∧
  (∀ (c : CmdHdr) (s u : State), holderNow c s u → s.host.orders = [] →
    let w := ordered Reg.HOST_LEASE c u
    exec (.leaseRelease c) s = .next ((w.leaseDrop 2).reply c 0x10 0 [0, 0]) ∧ (w.leaseDrop 2).leaseSid = 0) ∧
  ∀ s : State, (s.leaseSid ≠ 0 → s.leaseEnd ≤ s.cnt.toNat → ∃ t : State, exec .leaseExpiry s = .next t ∧ t.leaseSid = 0 ∧ t.mem = s.mem) ∧
    (s.leaseSid = 0 ∨ s.cnt.toNat < s.leaseEnd → exec .leaseExpiry s = .next s)

/-- R16: a write to an unused offset, or to a register with no field to write, changes nothing and is counted once by its block; a
backup register, a word of the holder area and a host scalar take the value; `HOST_UDP` takes its low 16 bits. -/
def Sys2Proof.Claims.registerWriteRule : Prop :=
  ∀ (off : W32) (v : W64) (s : State),
    (devRow off.toNat = none → exec (.registerWrite off v) s = .next (s.count (violCounter off.toNat) 1)) ∧
    (∀ r, devRow off.toNat = some r → r.rw ||| r.w1c ||| r.wo = 0 →
      exec (.registerWrite off v) s = .next (s.count (violCounter off.toNat) 1)) ∧
    (off.toNat % 8 = 0 → (0x60100 ≤ off.toNat ∧ off.toNat < 0x60200) ∨ (0x70000 ≤ off.toNat ∧ off.toNat < 0x90000) ∨
        (0x50100 ≤ off.toNat ∧ off.toNat < 0x50180) → exec (.registerWrite off v) s = .next (s.setReg off.toNat v)) ∧
    (off.toNat = Reg.HOST_UDP → ∃ t : State, exec (.registerWrite off v) s = .next t ∧ fld (t.reg Reg.HOST_UDP) 15 0 = v.toNat % 2 ^ 16 ∧
      t.reg Reg.HOST_CNT_VIOL = s.reg Reg.HOST_CNT_VIOL + (if v.toNat < 2 ^ 16 then 0 else 1))

/-- R16, R356 to R359, R361, R367: reading, writing and the lease. -/
def Obligations.HostRegisterCommands : Prop :=
  Sys2Proof.Claims.commandArrival ∧ Sys2Proof.Claims.replies ∧ Sys2Proof.Claims.registerAndMemoryCommands ∧
  Sys2Proof.Claims.leaseCommands ∧ Sys2Proof.Claims.registerWriteRule

/-- R364, R365, R372: a `SEED` of the holder with no heat running or pending takes effect and is logged; with one it is answered `BUSY`. A
`LAUNCH` is pending where the table of R365 says so. -/
def Sys2Proof.Claims.seedAndLaunch : Prop :=
  (∀ (c : CmdHdr) (sd : W64) (key : BitVec 128) (base : BitVec 48) (s u : State), holderNow c s u →
    s.host.orders = [] →
    (s.heatRuns = true ∨ s.heats.pendingLaunch ≠ none → exec (.seed c sd key base) s = .next ((ordered (2 ^ 33) c u).reply c 0x20 2 [])) ∧
    (s.heatRuns = false → s.heats.pendingLaunch = none → logOpen u → ∃ w : State, exec (.seed c sd key base) s = .next (w.reply c 0x20 0 []) ∧
      w.heats.seed = sd ∧ w.heats.key = key ∧ w.heats.base = base.toNat ∧ w.heats.lastSince = none ∧
      bitOf (w.reg Reg.HOST_STATUS) 1 = true)) ∧
  ∀ (c : CmdHdr) (heat : BitVec 48) (flags : W16) (s : State), s.pwr.st = .ready → c.peer = none → s.openSession c.sid = true →
    c.rsv = false → flags.toNat < 2 → s.holds c.sid = true → c.at_.toNat < s.leaseEnd →
    let u := s.touch c.sid
    let x : Launch := { heat := heat.toNat, l := c.at_, flags := flags.toNat, psn := c.psn, rank := 2, peer := 0 }
    (s.launchStatus x ≠ 0 → s.launchStatus x ≠ 2 → exec (.launch c heat flags) s = .next (u.reply c 0x21 (s.launchStatus x) [])) ∧
    (s.launchStatus x = 0 → s.heats.pendingLaunch = none → ∃ w : State, exec (.launch c heat flags) s = .next (w.reply c 0x21 0 []) ∧
      w.heats.pendingLaunch = some x ∧ w.regs = s.regs ∧ w.mem = s.mem) ∧
    (bitOf (s.reg Reg.HOST_STATUS) 1 = false → s.launchStatus x = 4) ∧
    (bitOf (s.reg Reg.HOST_STATUS) 1 = true → heat.toNat < s.heats.base → s.launchStatus x = 3)

/-- R305, R358, R367, R369: the holder advances the tails of the record ring and of the input log and gives credit for the state
stream; a position that is not unread is a violation. -/
def Sys2Proof.Claims.tailsAndCredit : Prop :=
  (∀ (c : CmdHdr) (off : W64) (s u : State), holderNow c s u →
    let size := s.hrecSize
    let adv := (off.toNat + size - (s.reg Reg.HOST_HREC_TAIL).toNat) % size
    s.host.orders = [] →
    (off.toNat < size → adv ≤ s.heats.recUsed → bitOf (s.reg Reg.HOST_STATUS) 5 = false → ∃ w : State,
      exec (.htail c off) s = .next (w.reply c 0x22 0 []) ∧ w.reg Reg.HOST_HREC_TAIL = off ∧
      w.heats.recUsed = s.heats.recUsed - adv ∧ w.mem = s.mem) ∧
    (size ≤ off.toNat ∨ s.heats.recUsed < adv → exec (.htail c off) s = .next ((ordered Reg.HOST_HREC_TAIL c u).cmdViol c))) ∧
  (∀ (c : CmdHdr) (v : W64) (s u : State), holderNow c s u → s.host.orders = [] →
    ((s.reg Reg.HOST_ILOG_TAIL).ule v = true → v.ule (s.reg Reg.HOST_ILOG_SEQ) = true → s.host.waitingIn = [] → ∃ w : State,
      exec (.itail c v) s = .next (w.reply c 0x24 0 []) ∧ w.reg Reg.HOST_ILOG_TAIL = v ∧ w.mem = s.mem) ∧
    (v.ult (s.reg Reg.HOST_ILOG_TAIL) = true ∨ (s.reg Reg.HOST_ILOG_SEQ).ult v = true →
      exec (.itail c v) s = .next ((ordered Reg.HOST_ILOG_TAIL c u).cmdViol c))) ∧
  ∀ (c : CmdHdr) (n : W64) (s u : State), holderNow c s u → s.host.streamOut = [] → ∃ w : State,
    exec (.sscredit c n) s = .next (w.reply c 0x23 0 []) ∧ w.host.credit = s.host.credit + n.toNat ∧ w.regs = u.regs

/-- R400: a mode bit from 0 to 12 is set as asked; bits 8, 9 and 11 are in force at once, the others stay until a launch or reset. -/
def Sys2Proof.Claims.modeCommand : Prop :=
  ∀ (c : CmdHdr) (bit v : Byte) (s u : State), holderNow c s u →
    (12 < bit.toNat ∨ 1 < v.toNat → exec (.mode c bit v) s = .next (u.cmdViol c)) ∧
    (bit.toNat ≤ 12 → v.toNat ≤ 1 → s.host.orders = [] → logOpen u → ∃ w : State, exec (.mode c bit v) s = .next (w.reply c 0x30 0 []) ∧
      bitOf w.host.modeNext bit.toNat = decide (v = 1) ∧
      (bit.toNat = 8 ∨ bit.toNat = 9 ∨ bit.toNat = 11 → w.modeBit bit.toNat = decide (v = 1)) ∧
      (¬(bit.toNat = 8 ∨ bit.toNat = 9 ∨ bit.toNat = 11) → w.modeBit bit.toNat = s.modeBit bit.toNat) ∧
      ∀ b, b ≠ bit.toNat → b < 64 → w.modeBit b = s.modeBit b)

/-- R415, R425: the holder's resets reply and then reset the module warm; a staged boot is checked in a boot session, and goes on to
`READY` or says which check failed. -/
def Sys2Proof.Claims.resetCommands : Prop :=
  (∀ (c : CmdHdr) (s u : State), holderNow c s u →
    exec (.resetWarm c) s = .next ((u.reply c 0x40 0 []).warmReset 3 false) ∧
    exec (.resetIdleBank c) s = .next ((u.reply c 0x40 0 []).warmReset 3 true)) ∧
  (∀ (s : State) (once : Bool), (s.assertReset 3).pwr.st = .held ∧ (s.assertReset 3).moulds = [] ∧ (s.assertReset 3).heats.pendingLaunch = none ∧
    (s.assertReset 3).host.sessions = [] ∧ (s.assertReset 3).field Reg.PWR_RST_CAUSE 31 0 = 3 ∧ (s.assertReset 3).cnt = s.cnt ∧
    (s.assertReset 3).pending = s.pending ∧ (∀ k, k < 32 → (s.assertReset 3).reg (Reg.PWR_BKP + 8 * k) = s.reg (Reg.PWR_BKP + 8 * k)) ∧
    ((s.assertReset 3).mayRise = false → s.warmReset 3 once = s.assertReset 3)) ∧
  ∀ (c : CmdHdr) (s : State), s.pwr.st = .bootwait → c.peer = none → s.openSession c.sid = true →
    let u := (s.touch c.sid).count Reg.HOST_CNT_VIOL (b2n c.rsv)
    let i := parseIngot fun k => s.mem.get (0x10000000000 + k)
    (s.ingotCheck i = 0 → exec (.resetStagedBoot c) s = .next ((u.reply c 0x40 0 []).finishBoot i (u.reply c 0x40 0 []).activeIsB true false)) ∧
    (s.ingotCheck i ≠ 0 → exec (.resetStagedBoot c) s =
      .next ((u.reply c 0x40 0 []).setField Reg.PWR_BOOT_STATUS 63 56 (s.ingotCheck i)))

/-- R17, R352, R367, R425: a data-in message of the holder is logged, and its bytes are written where they lie in an allocated region of HBM or
flask, unless a fenced stack answers with an error response; in a boot session bytes go to the staging area. -/
def Sys2Proof.Claims.dataCommands : Prop :=
  (∀ (c : CmdHdr) (a : BitVec 48) (d : List Byte) (s u : State), holderNow c s u → logOpen u →
    exec (.dataIn c a d) s = .next ((u.logInput 2 a.toNat d u.heats.key).writeData c a.toNat d)) ∧
  (∀ (s : State) (c : CmdHdr) (a u : Nat) (d : List Byte), d.length ≤ 64 → 64 * u ≤ a → a + d.length ≤ 64 * u + 64 → 0 < d.length →
    s.inRegion (64 * u) 64 (fun w => match w with | .hbm => true | .flask _ => true | _ => false) = true →
    (s.addrErrs (64 * u) = false →
      ∀ b, (s.writeData c a d).mem.get b = if a ≤ b ∧ b < a + d.length then d.getD (b - a) 0 else s.mem.get b) ∧
    (s.addrErrs (64 * u) = true → (s.writeData c a d).mem = s.mem ∧
      (s.writeData c a d).host.out = s.host.out ++ [.error c.sid 2 c.psn])) ∧
  ∀ (c : CmdHdr) (o : W32) (d : List Byte) (s : State), s.pwr.st = .bootwait → c.peer = none → s.openSession c.sid = true →
    o.toNat + d.length ≤ 0x7A00000 → ∃ t : State, exec (.bootDataIn c o d) s = .next t ∧ t.pwr = s.pwr ∧
      ∀ b, t.mem.get b = if 0x10000000000 + o.toNat ≤ b ∧ b < 0x10000000000 + o.toNat + d.length then
        d.getD (b - (0x10000000000 + o.toNat)) 0 else s.mem.get b

/-- R305, R352, R364, R365, R367, R369, R400, R415, R425: the holder's other commands. -/
def Obligations.HostControlCommands : Prop :=
  Sys2Proof.Claims.seedAndLaunch ∧ Sys2Proof.Claims.tailsAndCredit ∧ Sys2Proof.Claims.modeCommand ∧
  Sys2Proof.Claims.resetCommands ∧ Sys2Proof.Claims.dataCommands

/-! ## Heats as the module runs them -/

namespace Sys2Proof.Claims

/-- The record of the running heat as the ring takes it (R369 to R371): its chain value, and its bytes with the signatures. With no input
taken, what `ILOG_SEQ` holds is free. -/
def heatRecord (s : State) : List Byte × List Byte :=
  let f := if s.heats.taken = [] then s.freshWord else (0, s)
  let body := f.2.recordBody s.heatRec f.1
  (sha3 body, signRecord body (sha3 body))

/-- s with its heat's record in the ring, the chain value moved on, `HEAT_DONE` posted, and `HEAT_END` for the state stream (R366, R371). -/
def recorded (s : State) : State :=
  let r := heatRecord s
  let head := (s.reg Reg.HOST_HREC_HEAD).toNat
  let u := if s.heats.taken = [] then s.freshWord.2 else s
  let u := (u.hrecStore r.2).setReg Reg.HOST_HREC_HEAD (BitVec.ofNat 64 ((head + r.2.length) % s.hrecSize))
  let u := { u with heats := { u.heats with chain := some r.1, seedNew := false, recUsed := s.heats.recUsed + r.2.length,
                                            endWait := s.heats.endWait ++ [(⟨3, 0, s.heatNum, 0, 0, r.1, 0⟩ : RingRec)] } }
  u.eventOf s.heatNum 0x10 0x400 [(24, 6, head), (30, 2, r.2.length / 64), (32, 32, leNat r.1)]

end Sys2Proof.Claims

/-- R365, R395, R400: at the launch count of the pending launch the heat starts: it is delivered to every index that works, the per-heat
counts of the device, the risers and the moulds are zero, the modes asked for are in force, and a mould that waits for the launch enters
service at instruction 0. While a mould is `RUNNING` or after a fatal fault the launch is dropped and answered by an event that names the
lowest such mould. -/
def Sys2Proof.Claims.heatLaunchResult : Prop :=
  ∀ s : State,
    (s.heats.pendingLaunch = none → exec .heatLaunch s = .next s) ∧
    ∀ x, s.heats.pendingLaunch = some x →
      let runs (g : Nat) : Prop := g ∈ s.working ∧ (s.mould g).reg Reg.MID_HEAT_STATE = 1
      (s.cnt.toNat < x.l.toNat → exec .heatLaunch s = .next s) ∧
      (x.l.toNat ≤ s.cnt.toNat → (s.heats.fatal = true ∨ ∃ g, runs g) → ∃ t : State, exec .heatLaunch s = .next t ∧
        t.heats = { s.heats with pendingLaunch := none } ∧ t.moulds = s.moulds ∧ t.mem = s.mem ∧ t.heatRuns = s.heatRuns ∧
        ((∀ g, ¬runs g) → eventPosted s t 0x12 0x400) ∧ ∀ g, runs g → (∀ k, runs k → g ≤ k) → eventPosted s t 0x12 g) ∧
      (x.l.toNat ≤ s.cnt.toNat → s.heats.fatal = false → (∀ g, ¬runs g) → (∀ g : Nat, (s.mould g).wait = .none) →
        ∃ t : State, exec .heatLaunch s = .next t ∧ t.heatRuns = true ∧ t.heatNum = x.heat % 2 ^ 48 ∧
          t.heats.lastSince = some x.heat ∧ t.heats.pendingLaunch = none ∧ t.heats.l = x.l ∧ t.heats.overdue = false ∧ t.barriers = [] ∧
          t.runner.steps = [] ∧ t.runner.finished = [] ∧ t.reg Reg.SVC_MODE = latchModes (s.reg Reg.SVC_MODE) s.host.modeNext ∧
          (∀ o ∈ deviceHeatCounts, t.reg o = 0) ∧ (∀ g : Nat, ∀ o ∈ mouldHeatCounts, (t.mould g).reg o = 0) ∧
          (∀ g ∈ t.working, (t.mould g).launched = some x.heat) ∧
          ∀ g : Nat, g < 256 → s.mstate g = Svc.pendingEnable → (s.mould g).running = false → t.mstate g = Svc.inService ∧
            (t.mould g).running = true ∧ (t.mould g).pc = 0)

/-- R223, R365: a pair that waits in `HWAIT` takes the launch that has reached its mould: rd holds the heat number, the mould is
`RUNNING`, and the pair goes on. With no change of its crucible's flask split waiting, no other mould changes. -/
def Sys2Proof.Claims.launchEndsWait : Prop :=
  ∀ (s : State) (g n : Nat) (rd : BitVec 5), (s.mould g).stopped = false → (s.mould g).running = true → (s.mould g).wait = .hwait rd →
    (s.mould g).launched = some n →
    let m := (s.wake g).mould g
    (rd ≠ 0 → m.getX rd.toNat = BitVec.ofNat 64 n) ∧ m.launched = none ∧ m.reg Reg.MID_HEAT_STATE = 1 ∧
      m.reg Reg.MID_HEAT = BitVec.ofNat 64 n ∧ m.wait = .none ∧ m.pc = (s.mould g).pc + 1 ∧
      (bitOf (s.reg (Reg.MEM_FLASK_SPLIT + 8 * (g / 64))) 16 = false →
        (∀ k : Nat, k ≠ g → (s.wake g).mould k = s.mould k) ∧ (s.wake g).mem = s.mem ∧ (s.wake g).regs = s.regs)

/-- R366, R369, R371: a heat whose indices have all ended, with nothing of it outstanding, completes once its record fits the ring, where
no record of an earlier heat waits: the ring holds the record, its head and the chain value move on, `HEAT_DONE` is posted, results that
were held and the heat's faults and inputs go. Without a valid ring, or without room, it waits with `HRWAIT` set. -/
def Sys2Proof.Claims.heatCompletes : Prop :=
  ∀ s : State, (s.heatReady = false → exec .heatComplete s = .next s) ∧
    (s.heatReady = true → s.heats.owed = [] →
      let r := heatRecord s
      let base := (s.reg Reg.HOST_HREC_BASE).toNat
      let head := (s.reg Reg.HOST_HREC_HEAD).toNat
      let v := recorded s
      (s.hrecValid = false ∨ s.hrecSize < s.heats.recUsed + r.2.length →
        exec .heatComplete s = .next (s.setField Reg.HOST_STATUS 5 5 1)) ∧
      (s.hrecValid = true → s.heats.recUsed + r.2.length ≤ s.hrecSize →
        (Still v.flushEnds → exec .heatComplete s =
          let t := (v.flushEnds.setField Reg.HOST_STATUS 5 5 0).setField Reg.HOST_STATUS 3 3 0
          .next { t with runner := { t.runner with held := [] }, heats := { t.heats with faults := [], taken := [] } }) ∧
        v.heats.chain = some r.1 ∧ eventPosted s v 0x10 0x400 ∧
        (v.reg Reg.HOST_HREC_HEAD).toNat = (head + r.2.length) % s.hrecSize ∧
        (head < s.hrecSize → ∀ i : Nat, i < r.2.length → v.mem.get (base + (head + i) % s.hrecSize) = r.2.getD i 0) ∧
        ∀ a : Nat, a < base ∨ base + s.hrecSize ≤ a → v.mem.get a = s.mem.get a))

/-- R366: one event reports a heat that has not completed `HLIMIT` ms after its launch count; nothing else changes. -/
def Sys2Proof.Claims.heatOverdueResult : Prop :=
  ∀ s : State,
    let due : Prop := s.heatRuns = true ∧ s.heats.overdue = false ∧
      s.heats.l.toNat + s.field Reg.HOST_CFG 31 16 * 1000000 ≤ s.cnt.toNat
    (due → ∃ t : State, exec .heatOverdue s = .next t ∧ t.heats = { s.heats with overdue := true } ∧ t.heatRuns = true ∧ t.mem = s.mem ∧
      t.moulds = s.moulds ∧ t.runner = s.runner ∧ t.pwr = s.pwr ∧ eventPosted s t 0x11 0x400) ∧
    (¬due → exec .heatOverdue s = .next s)

/-- R389, R403: a mould that stands at a suspension point takes up the work that waits for it and runs the next context in turn, in ascending
cyclic order of the indices; a valid write of `SVC_REMAP` assigns work that waits, and any other is counted. -/
def Sys2Proof.Claims.guestTurns : Prop :=
  (∀ (g : BitVec 8) (s : State),
    let t := g.toNat
    (s.serving t = false ∨ s.suspended t = false → exec (.guestSwitch g) s = .next s) ∧
    (s.serving t = true → s.suspended t = true →
      let o := s.occupant t
      let v := (s.eligible t).foldl (fun u k => u.adopt t k) s
      let n := nextTurn o (sortBy (fun a b => decide (a < b)) (t :: v.carried t))
      let z := ((v.updMould o fun m => { m with stopped := true }).updMould n fun m => { m with stopped := false }).wake n
      (n = o → exec (.guestSwitch g) s = .next v) ∧
      (n ≠ o → calm z → exec (.guestSwitch g) s = .next z))) ∧
  (∀ (s : State) (t g : Nat), t < 256 → g < 256 → (s.adopt t g).hostOf g = some t ∧
    (∀ e ∈ (s.adopt t g).heats.guests, e.1 ≠ g) ∧ ((s.adopt t g).mould g).stopped = true ∧ (s.adopt t g).mem = s.mem ∧
    (∀ k : Nat, k ≠ g → (s.adopt t g).mould k = s.mould k)) ∧
  (∀ (o : Nat) (l : List Nat), l ≠ [] → l.Pairwise (· < ·) → nextTurn o l ∈ l ∧
    ((∃ k ∈ l, o < k) → o < nextTurn o l ∧ ∀ k ∈ l, o < k → nextTurn o l ≤ k) ∧
    ((∀ k ∈ l, k ≤ o) → ∀ k ∈ l, nextTurn o l ≤ k)) ∧
  ∀ (v : W64) (s : State),
    let g := fld v 7 0
    let t := fld v 15 8
    let ok : Prop := bitOf v 16 = true ∧ g / 64 = t / 64 ∧ s.serving t = true ∧ ∃ e ∈ s.heats.guests, e.1 = g
    (ok → ∃ u : State, exec (.hostRemap v) s = .next u ∧ u.mem = s.mem ∧ u.moulds = s.moulds ∧
      (∀ o : Nat, o ≠ Reg.SVC_REMAP → o ≠ Reg.HOST_CNT_VIOL → u.reg o = s.reg o) ∧
      u.heats.guests = s.heats.guests.map fun e => if e.1 = g then (g, some t) else e) ∧
    (¬ok → exec (.hostRemap v) s = .next (s.count Reg.HOST_CNT_VIOL 1))

/-- R223, R365, R366, R369, R371, R389, R395, R400, R403: how a heat starts, ends and moves between moulds. -/
def Obligations.HeatLifecycle : Prop :=
  Sys2Proof.Claims.heatLaunchResult ∧ Sys2Proof.Claims.launchEndsWait ∧ Sys2Proof.Claims.heatCompletes ∧
  Sys2Proof.Claims.heatOverdueResult ∧ Sys2Proof.Claims.guestTurns

/-! ## Faults of the other blocks -/

/-- R382, R389, R390, R391: an uncorrectable error in a mould's SRAM fails the mould, with a fatal fault where no other of its crucible is in
service; one in the flask, in the reduction buffer or in HBM aborts the heat and takes nothing out of service. The `UNIT` 0x200 of a flask
fault is the model's (log entry 50). -/
def Sys2Proof.Claims.uncorrectableErrors : Prop :=
  (∀ (g : BitVec 8) (s : State), (s.serving g.toNat = false → exec (.secdedUncorrectable (.mould g)) s = .next s) ∧
    (s.serving g.toNat = true → ∃ t : State, exec (.secdedUncorrectable (.mould g)) s = .next t ∧ t.mstate g.toNat = Svc.failed ∧
      t.mem = s.mem ∧ (t.mould g.toNat).running = false ∧
      (s.crucibleAlive g.toNat = true → faultLogged s t 5 g.toNat 2 2 ∧ (g.toNat, none) ∈ t.heats.guests) ∧
      (s.crucibleAlive g.toNat = false → faultLogged s t 5 g.toNat 4 9 ∧ t.heats.fatal = true ∧ t.heatRuns = false))) ∧
  (∀ (a : BitVec 48) (d : Bool) (s : State),
    ∀ p ∈ [(Instr.secdedUncorrectable (.flask a), 5, 0x200), (.secdedUncorrectable (.reductionBuffer d), 5, 0x300),
        (.hbmEccUncorrectable a, 6, 0x210 + s.stackOf a.toNat)],
      ∃ t : State, exec p.1 s = .next t ∧ faultLogged s t p.2.1 p.2.2 3 8 ∧ t.heatRuns = false ∧ t.mem = s.mem ∧
        t.heats.fatal = s.heats.fatal ∧ (∀ g : Nat, g < 256 → t.mstate g = s.mstate g) ∧ ∀ k : Nat, k < 8 → t.sstate k = s.sstate k)

/-- R392: an aborted heat changes no memory; every mould in service starts again at instruction 0 with its registers at their reset values; no
collective, routing step, riser command, claim or barrier of it is outstanding, and the work of every mould out of service waits for a
carrier. With no heat running there is nothing to abort. -/
def Sys2Proof.Claims.abortedHeat : Prop :=
  ∀ s : State, (s.heatRuns = false → s.abort = s) ∧
    (s.heatRuns = true → s.abort.heatRuns = false ∧ s.abort.mem = s.mem ∧ s.abort.barriers = [] ∧ s.abort.runner.colls = [] ∧
      s.abort.runner.steps = [] ∧ (∀ r : Nat, r < 8 → (s.abort.riser r).queue = [] ∧ (s.abort.riser r).claims = [] ∧
        (s.abort.riser r).opened = (s.riser r).opened) ∧
      (∀ g : Nat, s.serving g = true → s.abort.mould g = { Mould.reset with running := true }) ∧
      ∀ g : Nat, g < 256 → s.serving g = false → s.mstate g ≠ Svc.fused → (g, none) ∈ s.abort.heats.guests)

/-- R18, R382, R391, R420: a sequencer's mismatch aborts the heat, and the second since the last reset is fatal. A lockstep mismatch of the
management processor restarts it, a masked fault; where the restart is late, or follows another within a second, the module resets with
cause 6 (that this fault is reported as fatal is the model's choice, log entry 73). In `HELD` and before bring-up nothing is found. -/
def Sys2Proof.Claims.controllerMismatches : Prop :=
  (∀ (c : BitVec 2) (s : State), ∃ t : State, exec (.sequencerMismatch c) s = .next t ∧ t.heatRuns = false ∧ t.mem = s.mem ∧
    c.toNat ∈ t.seqMismatch ∧
    (c.toNat ∉ s.seqMismatch → faultLogged s t 2 (0x600 + c.toNat) 3 8 ∧ t.heats.fatal = s.heats.fatal) ∧
    (c.toNat ∈ s.seqMismatch → faultLogged s t 2 (0x600 + c.toNat) 4 9 ∧ t.heats.fatal = true)) ∧
  ∀ (late : Bool) (s : State),
    let again : Prop := ∃ u, s.pwr.mpRestart = some u ∧ s.cnt.toNat < u.toNat + 1000000000
    (s.pwr.st = .held ∨ s.pwr.st = .charging → exec (.mpLockstepMismatch late) s = .next s) ∧
    (s.pwr.st ≠ .held → s.pwr.st ≠ .charging →
      (late = true ∨ again →
        let u := s.raiseFault { mech := 3, unit := 0x500, cls := .fatal, action := 9 }
        exec (.mpLockstepMismatch late) s = .next ((u.assertReset 6).rise false) ∧ faultLogged s u 3 0x500 4 9 ∧
          (u.assertReset 6).pwr.st = .held ∧ (u.assertReset 6).field Reg.PWR_RST_CAUSE 31 0 = 6 ∧ (u.assertReset 6).cnt = s.cnt) ∧
      (late = false → ¬again → ∃ t : State, exec (.mpLockstepMismatch late) s = .next t ∧
        t = { s with pwr := { s.pwr with mpRestart := some s.cnt } }.raiseFault { mech := 3, unit := 0x500, cls := .masked, action := 7 } ∧
        t.pwr.mpRestart = some s.cnt ∧ t.pwr.st = s.pwr.st ∧ t.mem = s.mem ∧ t.moulds = s.moulds ∧ t.heats.fatal = s.heats.fatal))

/-- R383, R386, R389: a stalled stage fences the block that contains it: a mould, a riser, a stack, a port or a sequencer; the host port loses its
link. A block that is not in use does not stall. -/
def Sys2Proof.Claims.stalledStages : Prop :=
  ∀ s : State,
    (∀ g : BitVec 8, (s.serving g.toNat = false → exec (.handshakeStall (.mould g)) s = .next s) ∧
      (s.serving g.toNat = true → ∃ t : State, exec (.handshakeStall (.mould g)) s = .next t ∧ t.mstate g.toNat = Svc.failed ∧ t.mem = s.mem ∧
        (s.crucibleAlive g.toNat = true → faultLogged s t 7 g.toNat 2 2) ∧
        (s.crucibleAlive g.toNat = false → faultLogged s t 7 g.toNat 4 9))) ∧
    (∀ r : BitVec 3, (s.riserServing r.toNat = false → exec (.handshakeStall (.riser r)) s = .next s) ∧
      (s.riserServing r.toNat = true →
        let z := s.failRiser r.toNat 7
        (calm z → exec (.handshakeStall (.riser r)) s = .next z) ∧ faultLogged s z 7 (0x100 + r.toNat) 2 3 ∧
          (z.riser r.toNat).failed = true ∧ z.mem = s.mem)) ∧
    (∀ k : BitVec 3, (s.stackServing k.toNat = false → exec (.handshakeStall (.stack k)) s = .next s) ∧
      (s.stackServing k.toNat = true →
        let z := (s.raiseFault { mech := 7, unit := 0x210 + k.toNat, cls := .degraded, action := 0 }).setSstate k.toNat Svc.failed
        (calm z → exec (.handshakeStall (.stack k)) s = .next z) ∧ faultLogged s z 7 (0x210 + k.toNat) 2 0 ∧
          z.sstate k.toNat = Svc.failed ∧ z.mem = s.mem)) ∧
    (∀ p : BitVec 4,
      let used : Prop := s.portState p.toNat = PortSt.up ∨ s.portState p.toNat = PortSt.draining ∨ s.portState p.toNat = PortSt.training
      (¬used → exec (.handshakeStall (.port p)) s = .next s) ∧
      (used → ∃ t : State, exec (.handshakeStall (.port p)) s = .next t ∧
        faultLogged s t 7 (0x310 + p.toNat) 2 4 ∧ t.portState p.toNat = PortSt.failed ∧ t.mem = s.mem)) ∧
    (∀ c : BitVec 2, ∃ t : State, exec (.handshakeStall (.sequencer c)) s = .next t ∧ t.heatRuns = false ∧ t.mem = s.mem ∧
      (c.toNat ∉ s.seqMismatch → faultLogged s t 7 (0x600 + c.toNat) 3 8) ∧
      (c.toNat ∈ s.seqMismatch → faultLogged s t 7 (0x600 + c.toNat) 4 9)) ∧
    (bitOf (s.reg Reg.HOST_STATUS) 0 = false → exec (.handshakeStall .hostPort) s = .next s) ∧
    (bitOf (s.reg Reg.HOST_STATUS) 0 = true → ∃ t : State, exec (.handshakeStall .hostPort) s = .next t ∧
      bitOf (t.reg Reg.HOST_STATUS) 0 = false ∧ t.moulds = s.moulds ∧ t.mem = s.mem)

/-- R18, R379, R382, R383, R386, R389 to R392, R420: faults outside the engines. -/
def Obligations.BlockFaults : Prop :=
  Sys2Proof.Claims.uncorrectableErrors ∧ Sys2Proof.Claims.abortedHeat ∧ Sys2Proof.Claims.controllerMismatches ∧
  Sys2Proof.Claims.stalledStages

/-! ## Live service -/

/-- R395: the table of the enable field for a mould. An idle mould that drains has nothing to wait for. Whether a mould that has failed waits
for the launch or fails its self-test again is a free bit (log entry 3), and then a fault is logged. -/
def Sys2Proof.Claims.mouldEnable : Prop :=
  (∀ (b : BitVec 8) (s : State),
    let g := b.toNat
    ∃ t : State, exec (.mouldDisable b) s = .next t ∧ t.mem = s.mem ∧
      (s.mstate g ≠ Svc.fused → bitOf (t.reg (mctlOff g)) 0 = false) ∧
      (s.mstate g = Svc.inService → ¬((s.mould g).idle = true ∧ (s.mould g).running = true) → t.mstate g = Svc.draining ∧ t.moulds = s.moulds) ∧
      (s.mstate g = Svc.inService → (s.mould g).idle = true → (s.mould g).running = true →
        t.mstate g = Svc.out ∧ (t.mould g).running = false ∧ (g, none) ∈ t.heats.guests) ∧
      (s.mstate g = Svc.pendingEnable → t.mstate g = (if (s.mould g).running = true then Svc.draining else Svc.out) ∧ t.moulds = s.moulds) ∧
      (s.mstate g ≠ Svc.inService → s.mstate g ≠ Svc.pendingEnable → t.mstate g = s.mstate g ∧ t.moulds = s.moulds)) ∧
  ∀ (b : BitVec 8) (s : State),
    let g := b.toNat
    ∃ t : State, exec (.mouldEnable b) s = .next t ∧ t.mem = s.mem ∧ t.moulds = s.moulds ∧
      (s.mstate g ≠ Svc.fused → bitOf (t.reg (mctlOff g)) 0 = true) ∧
      (s.mstate g = Svc.draining ∨ s.mstate g = Svc.out → t.mstate g = Svc.pendingEnable) ∧
      (s.mstate g = Svc.failed → Config.freeBit s.free = true → t.mstate g = Svc.pendingEnable) ∧
      (s.mstate g = Svc.failed → Config.freeBit s.free = false → t.mstate g = Svc.failed ∧ faultLogged s t 0 g 2 0) ∧
      (s.mstate g ≠ Svc.draining → s.mstate g ≠ Svc.out → s.mstate g ≠ Svc.failed → t.mstate g = s.mstate g)

/-- R168, R396: a `SVC_MOULD_LOAD` write in `OUT` resets the mould, copies `LENU` × 64 B into its instruction memory, zero-fills the rest and clears
its checkpoint; outside `OUT`, or with `LENU` outside 1 to 1,024, it is a violation. When the load ends the mould is `OUT`, or waits for the next
launch if it is enabled. While the mould's work runs elsewhere as a guest, the image is kept for its own start (log entry 54). -/
def Sys2Proof.Claims.mouldLoading : Prop :=
  (∀ (b : BitVec 8) (v : W64) (s : State),
    let g := b.toNat
    let n := fld v 58 48
    (s.mstate g ≠ Svc.out ∨ n = 0 ∨ 1024 < n → exec (.mouldLoad b v) s = .next (s.count Reg.HOST_CNT_VIOL 1)) ∧
    (s.mstate g = Svc.out → 0 < n → n ≤ 1024 → s.hostOf g ≠ none → ∃ t : State, exec (.mouldLoad b v) s = .next t ∧
      t.mstate g = Svc.loading ∧ t.mem = s.mem ∧ t.mould g = { s.mould g with loaded := some (s.image (fld v 47 0) n), ckpt := none } ∧
      ∀ k : Nat, k ≠ g → t.mould k = s.mould k) ∧
    (s.mstate g = Svc.out → 0 < n → n ≤ 1024 → s.hostOf g = none → ∃ t : State, exec (.mouldLoad b v) s = .next t ∧
      t.mstate g = Svc.loading ∧ t.mem = s.mem ∧ (∀ k : Nat, k ≠ g → t.mould k = s.mould k) ∧
      (∀ i : Nat, SMap.get 0 (t.mould g).imem i = if i < 8 * n then BitVec.ofNat 64 (s.wordAt 0 (fld v 47 0 + 8 * i) 8) else 0) ∧
      (t.mould g).ckpt = none ∧ (t.mould g).pc = 0 ∧ (t.mould g).p = 0 ∧ (∀ r : Nat, (t.mould g).getX r = 0) ∧
      (∀ r : Nat, (t.mould g).getD r = voidImage))) ∧
  ∀ (b : BitVec 8) (s : State),
    let g := b.toNat
    (s.mstate g ≠ Svc.loading → exec (.mouldLoadComplete b) s = .next s) ∧
    (s.mstate g = Svc.loading → ∃ t : State, exec (.mouldLoadComplete b) s = .next t ∧ t.moulds = s.moulds ∧ t.mem = s.mem ∧
      t.mstate g = if bitOf (s.reg (mctlOff g)) 0 = true then Svc.pendingEnable else Svc.out)

/-- R395 to R397: the enable field of an HBM stack. A stack in which a region has its footprint stays in service; an enable of one that is
out, or has failed, starts its training, which ends in service or in `FAILED`. -/
def Sys2Proof.Claims.stackEnable : Prop :=
  (∀ (k : BitVec 3) (s : State), ∃ t : State, exec (.stackDisable k) s = .next t ∧ t.mem = s.mem ∧ t.moulds = s.moulds ∧
    (s.sstate k.toNat = Svc.inService → s.stackUsed k.toNat = false →
      t.sstate k.toNat = Svc.out ∧ bitOf (t.reg (sctlOff k.toNat)) 0 = false ∧ bitOf (t.reg (sctlOff k.toNat)) 7 = false) ∧
    (s.sstate k.toNat = Svc.inService → s.stackUsed k.toNat = true →
      t.sstate k.toNat = Svc.inService ∧ bitOf (t.reg (sctlOff k.toNat)) 7 = true) ∧
    (s.sstate k.toNat ≠ Svc.inService → t.sstate k.toNat = s.sstate k.toNat ∧ bitOf (t.reg (sctlOff k.toNat)) 0 = false)) ∧
  (∀ (k : BitVec 3) (s : State), ∃ t : State, exec (.stackEnable k) s = .next t ∧ t.mem = s.mem ∧ t.moulds = s.moulds ∧
    bitOf (t.reg (sctlOff k.toNat)) 0 = true ∧
    t.sstate k.toNat = if s.sstate k.toNat = Svc.out ∨ s.sstate k.toNat = Svc.failed then 6 else s.sstate k.toNat) ∧
  ∀ (k : BitVec 3) (ok : Bool) (s : State),
    (s.sstate k.toNat ≠ 6 → exec (.stackTrainingComplete k ok) s = .next s) ∧
    (s.sstate k.toNat = 6 → ok = true → ∃ t : State, exec (.stackTrainingComplete k ok) s = .next t ∧ t.mem = s.mem ∧
      t.sstate k.toNat = (if bitOf (s.reg (sctlOff k.toNat)) 0 = true then Svc.inService else Svc.out) ∧
      ((s.riser k.toNat).recover = false → (t.riser k.toNat).failed = false)) ∧
    (s.sstate k.toNat = 6 → ok = false →
      let z := (s.raiseFault { mech := 0x0C, unit := 0x210 + k.toNat, cls := .degraded, action := 0 }).setSstate k.toNat Svc.failed
      (calm z → exec (.stackTrainingComplete k ok) s = .next z) ∧ faultLogged s z 0x0C (0x210 + k.toNat) 2 0 ∧ z.sstate k.toNat = Svc.failed ∧ z.mem = s.mem)

/-- R398, R425: a block of the idle ingot is activated, unless the ingot's signatures do not verify, its last write was not accepted or an
activation goes on: then `REFUSED` is set. A block above 9 is a violation. With all ten blocks activated the banks exchange; sessions stay. -/
def Sys2Proof.Claims.ingotBlocks : Prop :=
  (∀ (blk : BitVec 4) (s : State),
    let ok : Prop := s.idleIngot.edOk = true ∧ s.idleIngot.mlOk = true ∧ s.field Reg.PWR_FLASH_CTL 60 56 = 0 ∧ s.pwr.ingotBusy = none ∧
      bitOf (s.reg Reg.SVC_INGOT) 16 = false
    (9 < blk.toNat → exec (.ingotActivate blk) s = .next (s.count Reg.HOST_CNT_VIOL 1)) ∧
    (blk.toNat ≤ 9 → ok → ∃ t : State, exec (.ingotActivate blk) s = .next t ∧ bitOf (t.reg Reg.SVC_INGOT) 16 = true ∧
      bitOf (t.reg Reg.SVC_INGOT) 17 = false ∧ t.pwr.activated = blk.toNat :: s.pwr.activated.filter (· ≠ blk.toNat) ∧
      t.mem = s.mem ∧ t.moulds = s.moulds ∧ t.heats = s.heats) ∧
    (blk.toNat ≤ 9 → ¬ok → ∃ t : State, exec (.ingotActivate blk) s = .next t ∧ bitOf (t.reg Reg.SVC_INGOT) 17 = true ∧ t.pwr = s.pwr ∧
      bitOf (t.reg Reg.SVC_INGOT) 16 = bitOf (s.reg Reg.SVC_INGOT) 16)) ∧
  ∀ s : State, (bitOf (s.reg Reg.SVC_INGOT) 16 = false → exec .ingotActivationComplete s = .next s) ∧
    (bitOf (s.reg Reg.SVC_INGOT) 16 = true → ∃ t : State, exec .ingotActivationComplete s = .next t ∧
      bitOf (t.reg Reg.SVC_INGOT) 16 = false ∧ t.pwr.attests = s.pwr.attests + 1 ∧ t.host.sessions = s.host.sessions ∧
      t.host.trust = (if s.pwr.activated.head? = some 9 then s.idleIngot.trust else s.host.trust) ∧ t.mem = s.mem ∧
      (s.pwr.activated.length < 10 → t.activeIsB = s.activeIsB ∧ t.idleIsB = s.idleIsB ∧ t.pwr.activated = s.pwr.activated) ∧
      (10 ≤ s.pwr.activated.length → t.activeIsB = s.idleIsB ∧ t.idleIsB = !s.idleIsB ∧ bitOf t.pwr.opt 1 = s.idleIsB))

/-- R168, R394 to R398: blocks leave and enter service. -/
def Obligations.LiveService : Prop :=
  Sys2Proof.Claims.mouldEnable ∧ Sys2Proof.Claims.mouldLoading ∧ Sys2Proof.Claims.stackEnable ∧ Sys2Proof.Claims.ingotBlocks

/-! ## Flash and fuses -/

/-- R431: option bytes take a write while none is being programmed and `RETRY` and `WDOG` are in range; the bank bit is kept. -/
def Sys2Proof.Claims.optionBytes : Prop :=
  (∀ (v : W64) (s : State),
    (s.pwr.optBusy = true ∨ fld v 19 16 = 0 ∨ fld v 15 8 = 0 →
      exec (.optionBytesWrite v) s = .next (s.count Reg.HOST_CNT_VIOL 1)) ∧
    (s.pwr.optBusy = false → fld v 19 16 ≠ 0 → fld v 15 8 ≠ 0 → ∃ t : State, exec (.optionBytesWrite v) s = .next t ∧
      fld t.pwr.opt 19 16 = fld v 19 16 ∧ fld t.pwr.opt 15 8 = fld v 15 8 ∧ fld t.pwr.opt 0 0 = fld v 0 0 ∧
      bitOf t.pwr.opt 1 = bitOf s.pwr.opt 1 ∧ t.pwr.optBusy = true ∧ t.mem = s.mem ∧
      ∀ o : Nat, o ≠ Reg.HOST_CNT_VIOL → t.reg o = s.reg o)) ∧
  ∀ s : State, exec .optionBytesProgrammed s = .next { s with pwr := { s.pwr with optBusy := false } }

/-- R425, R431: a write of `GO` erases the idle bank and starts to program it; while one goes on, or with `LEN` out of range, it is a violation.
When it ends, `DONE` is set and `RESULT` names the first check that fails. -/
def Sys2Proof.Claims.ingotWrites : Prop :=
  (∀ (v : W64) (s : State),
    let len := fld v 31 0
    (s.pwr.ingotBusy ≠ none ∨ len = 0 ∨ 31232 < len → exec (.ingotWrite v) s = .next (s.count Reg.HOST_CNT_VIOL 1)) ∧
    (s.pwr.ingotBusy = none → 0 < len → len ≤ 31232 → ∃ t : State, exec (.ingotWrite v) s = .next t ∧ t.pwr.ingotBusy = some len ∧
      t.bank s.idleIsB = Ingot.blank ∧ t.bank (!s.idleIsB) = s.bank (!s.idleIsB) ∧ t.field Reg.PWR_FLASH_CTL 61 61 = 0 ∧
      t.field Reg.PWR_FLASH_CTL 31 0 = len ∧ t.mem = s.mem ∧ t.moulds = s.moulds)) ∧
  (∀ s : State, (s.pwr.ingotPending = none → exec .ingotWriteDone s = .next s) ∧
    ∀ i, s.pwr.ingotPending = some i → ∃ t : State, exec .ingotWriteDone s = .next t ∧ t.bank s.idleIsB = i ∧
      t.bank (!s.idleIsB) = s.bank (!s.idleIsB) ∧ t.pwr.ingotBusy = none ∧ t.field Reg.PWR_FLASH_CTL 61 61 = 1 ∧
      t.field Reg.PWR_FLASH_CTL 60 56 = s.ingotCheck i ∧ t.mem = s.mem) ∧
  ∀ (i : Ingot) (s : State), (s.ingotCheck i = 0 ↔ i.magicOk = true ∧ (∃ k ∈ s.pwr.keys, k.sealed = true ∧ k.revoked = false ∧ k.hash = i.keyHash) ∧
    s.pwr.fsvn ≤ i.svn ∧ i.edOk = true ∧ i.mlOk = true ∧ i.digestsOk = true ∧ i.readOk = true)

/-- R426: key slots are sealed once and revoked for good; slot 0 goes only while another slot is good; the security version only rises, up
to that of the active ingot. -/
def Sys2Proof.Claims.keySlots : Prop :=
  (∀ (b : BitVec 2) (s : State), s.pwr.keys.length = 4 →
    let n := b.toNat
    (n = 0 ∨ (s.pwr.key n).sealed = true → exec (.keySeal b) s = .next (s.count Reg.HOST_CNT_VIOL 1)) ∧
    (n ≠ 0 → (s.pwr.key n).sealed = false → ∃ t : State, exec (.keySeal b) s = .next t ∧
      t.pwr.key n = ⟨s.regBytes Reg.PWR_KEY_HASH 4, true, (s.pwr.key n).revoked⟩ ∧ (∀ k : Nat, k ≠ n → t.pwr.key k = s.pwr.key k) ∧
      t.reg Reg.HOST_CNT_VIOL = s.reg Reg.HOST_CNT_VIOL ∧ t.mem = s.mem) ∧
    ((s.pwr.key n).sealed = false ∨ n = 0 ∧ s.pwr.otherKey = false → exec (.keyRevoke b) s = .next (s.count Reg.HOST_CNT_VIOL 1)) ∧
    ((s.pwr.key n).sealed = true → n ≠ 0 ∨ s.pwr.otherKey = true → ∃ t : State, exec (.keyRevoke b) s = .next t ∧
      t.pwr.key n = { s.pwr.key n with revoked := true } ∧ (∀ k : Nat, k ≠ n → t.pwr.key k = s.pwr.key k) ∧
      t.reg Reg.HOST_CNT_VIOL = s.reg Reg.HOST_CNT_VIOL ∧ t.mem = s.mem)) ∧
  (∀ (v : W64) (s : State), bitOf v 4 = bitOf v 5 →
    exec (.registerWrite (BitVec.ofNat 32 Reg.PWR_KEY_CTL) v) s = .next (s.count Reg.HOST_CNT_VIOL 1)) ∧
  ∀ (v : W64) (s : State),
    let n := fld v 6 0
    (n ≤ s.pwr.fsvn ∨ (s.bank s.activeIsB).svn < n → exec (.svnCommit v) s = .next (s.count Reg.HOST_CNT_VIOL 1)) ∧
    (s.pwr.fsvn < n → n ≤ (s.bank s.activeIsB).svn → ∃ t : State, exec (.svnCommit v) s = .next t ∧
      t.pwr = { s.pwr with fsvn := n } ∧ t.mem = s.mem)

/-- R425, R426, R431: what is written to the module flash and the fuses. -/
def Obligations.FlashAndFuses : Prop :=
  Sys2Proof.Claims.optionBytes ∧ Sys2Proof.Claims.ingotWrites ∧ Sys2Proof.Claims.keySlots

/-! ## Power and reset -/

namespace Sys2Proof.Claims

/-- Only the measured supply differs from s to t: `PWR_INPUT`, and of `PWR_STATUS` bit 1. -/
def supplyOnly (s t : State) : Prop :=
  t.mem = s.mem ∧ t.moulds = s.moulds ∧ t.heats = s.heats ∧ t.host = s.host ∧ t.cnt = s.cnt ∧
    (∀ o : Nat, o ≠ Reg.PWR_INPUT → o ≠ Reg.PWR_STATUS → t.reg o = s.reg o) ∧
    ∀ b : Nat, b < 64 → b ≠ 1 → bitOf (t.reg Reg.PWR_STATUS) b = bitOf (s.reg Reg.PWR_STATUS) b

/-- `INPUT_ON` (R431). -/
def inputOn (s : State) : Bool := bitOf (s.reg Reg.PWR_STATUS) 1

/-- A device that a bring-up has taken to `READY` on an ingot: the bank, whether it is the fall-back, and what the ingot gives it (R421, R422,
R424). -/
def bootedWith (s t : State) (i : Ingot) (bankB fallback : Bool) : Prop :=
  t.pwr.st = .ready ∧ t.pwr.removing = false ∧ t.pwr.thermtrip = false ∧ t.host.trust = i.trust ∧
    t.field Reg.PWR_BOOT_STATUS 39 32 = i.svn % 256 ∧ t.field Reg.PWR_BOOT_STATUS 19 16 = 0 ∧
    bitOf (t.reg Reg.PWR_BOOT_STATUS) 8 = fallback ∧ bitOf (t.reg Reg.PWR_BOOT_STATUS) 4 = bankB ∧ bitOf (t.reg Reg.PWR_BOOT_STATUS) 0 = false ∧
    t.reg Reg.RUN_TOPO = BitVec.ofNat 64 (i.topo * 65536 + s.pwr.slotStrap.toNat * 4096 + i.coords) ∧
    t.field Reg.HOST_PTP_CFG 7 0 = i.domain % 256

/-- How a bring-up from the banks, keys and pins of s ends in t, with the boot option, the active bank and the count of failed bring-ups that
it starts with (R421, R422, R440): a slot strap above 8 leaves the module `HELD`; the boot option waits for the host; a boot from the idle bank is
tried once; the active bank is taken while fewer than `RETRY` bring-ups have failed; then the other bank; then `BOOTWAIT`. `THERMTRIP_N` is released with `HELD` (R436). -/
def bootEnds (s t : State) (host activeB once : Bool) (fails : Nat) : Prop :=
  let check (b : Bool) : Nat := s.ingotCheck (s.bank b)
  let failed := if once = true then min 15 (fails + 1) else fails
  if 8 < s.pwr.slotStrap.toNat then t.pwr.st = .held
  else if host = true then t.pwr.st = .bootwait ∧ t.pwr.thermtrip = false
  else if once = true ∧ check (!activeB) = 0 then bootedWith s t (s.bank !activeB) (!activeB) false
  else if check activeB = 0 ∧ failed < fld s.pwr.opt 19 16 then bootedWith s t (s.bank activeB) activeB false
  else if check (!activeB) = 0 then bootedWith s t (s.bank !activeB) (!activeB) true
  else t.pwr.st = .bootwait ∧ t.pwr.thermtrip = false ∧ t.field Reg.PWR_BOOT_STATUS 63 56 = check (!activeB)

/-- What a cold bring-up leaves (R413, R415, R416): the counter at 0, cause 0x01 and count 1, no seed, no lease, no session, backup registers
zero; the fault log, `FSEQ` and the chain value are those of the best save image. The boot option and the active bank are those of the option
bytes. -/
def coldEnds (s t : State) : Prop :=
  t.cnt = 0 ∧ t.reg Reg.PWR_RST_CAUSE = 0x100000001 ∧ bitOf (t.reg Reg.HOST_STATUS) 1 = false ∧ t.leaseSid = 0 ∧
    t.host.sessions = [] ∧ t.pwr.standby = true ∧ (∀ k : Nat, k < 32 → t.reg (Reg.PWR_BKP + 8 * k) = 0) ∧
    t.heats.chain = s.pwr.bestSave.bind (·.chain) ∧
    (match s.pwr.bestSave with
    | none => t.pwr.fseq = 0 ∧ t.reg Reg.SVC_FLOG_HEAD = 0 ∧ ∀ k : Nat, k < 8192 → t.reg (Reg.SVC_FLOG + 8 * k) = 0
    | some i => t.pwr.fseq = i.fseq ∧ t.reg Reg.SVC_FLOG_HEAD = BitVec.ofNat 64 (i.fseq % 1024) ∧
        ∀ k : Nat, k < 8192 → t.reg (Reg.SVC_FLOG + 8 * k) = SMap.get 0 i.words (0x5370 + k)) ∧
    bootEnds s t (bitOf s.pwr.opt 0) (bitOf s.pwr.opt 1) false 0

/-- What comes of s when its hold may end (R414, R416, R417): while something holds the module nothing changes; else bring-up is warm, or cold
once the standby domain has lost power. -/
def rises (s t : State) : Prop :=
  if s.mayRise = true then
    if s.pwr.standby = true then
      t.cnt = s.cnt ∧ t.pwr.standby = true ∧ bootEnds s t (bitOf (s.reg Reg.SVC_MODE) 12) s.activeIsB false s.bootFails
    else coldEnds s t
  else t = s

/-- A cold bring-up may start (R422, R450): the module is seated and charging, the reference is present, the reset pin is high and the node is at
50 V. -/
def mayPowerUp (s : State) : Prop :=
  s.pwr.st = .charging ∧ s.pwr.refclk = true ∧ s.pwr.seated = true ∧ s.pwr.rstLow = false ∧ 5000 ≤ s.vnode

/-- What a reset of a cause leaves from s (R415, R416): the counter, the backup registers and the flash are kept, sessions have ended. -/
def warmReseted (s t : State) (cause : Nat) : Prop :=
  t.cnt = s.cnt ∧ t.field Reg.PWR_RST_CAUSE 7 0 = cause ∧
    t.field Reg.PWR_RST_CAUSE 63 32 = (s.field Reg.PWR_RST_CAUSE 63 32 + 1) % 2 ^ 32 ∧
    (∀ k : Nat, k < 32 → t.reg (Reg.PWR_BKP + 8 * k) = s.reg (Reg.PWR_BKP + 8 * k)) ∧ t.host.sessions = [] ∧
    bitOf (t.reg Reg.HOST_STATUS) 1 = false ∧ t.pwr.bankA = s.pwr.bankA ∧ t.pwr.bankB = s.pwr.bankB ∧ t.activeIsB = s.activeIsB

end Sys2Proof.Claims

/-- R406, R443, R450, R452: the input stage opens below 40 V, above 62 V and on a reversed busbar (where what `VIN` reads is free, log entry 3); it closes
again in 44 to 61 V while the pins allow it and no removal sequence runs; outside 46 to 60 V the alert is raised. -/
def Sys2Proof.Claims.inputStage : Prop :=
  (∀ (v : W16) (s : State), ∃ t : State, exec (.inputUndervoltage v) s = .next t ∧ supplyOnly s t ∧ t.pwr = s.pwr ∧
    t.field Reg.PWR_INPUT 47 32 = v.toNat ∧ t.vnode = s.vnode ∧ inputOn t = (inputOn s && decide (4000 ≤ v.toNat))) ∧
  (∀ s : State, ∃ t : State, exec .inputReversed s = .next t ∧ supplyOnly s t ∧ t.pwr = s.pwr ∧ t.vnode = s.vnode ∧ inputOn t = false) ∧
  (∀ (v : W16) (s : State), ∃ t : State, exec (.inputOvervoltage v) s = .next t ∧ supplyOnly s t ∧ t.pwr = s.pwr ∧
    t.field Reg.PWR_INPUT 47 32 = v.toNat ∧ t.vnode = s.vnode ∧ inputOn t = (inputOn s && decide (v.toNat ≤ 6200))) ∧
  (∀ (v : W16) (s : State), ∃ t : State, exec (.inputReconnect v) s = .next t ∧ supplyOnly s t ∧ t.pwr = s.pwr ∧
    t.field Reg.PWR_INPUT 47 32 = v.toNat ∧ t.vnode = s.vnode ∧
    inputOn t = (inputOn s || (decide (4400 ≤ v.toNat ∧ v.toNat ≤ 6100) && s.pwr.pinsOk && !s.pwr.removing))) ∧
  ∀ (v : W16) (s : State), ∃ t : State, exec (.inputRangeAlert v) s = .next t ∧ supplyOnly s t ∧ t.field Reg.PWR_INPUT 47 32 = v.toNat ∧
    inputOn t = inputOn s ∧ t.pwr.st = s.pwr.st ∧
    t.pwr.alert = if v.toNat < 4600 ∨ 6000 < v.toNat then s.pwr.alert ||| 0x20 else s.pwr.alert

/-- R409, R414, R415: quench is armed in `READY` at 50 V; at 46 V an armed module saves and is `HELD` with cause 0x08, and one that is not armed
is `HELD` with nothing saved; below 30 V the standby domain is lost. The upper end of the 46.0 V ± 0.25 V band is where the model acts, and the
cause where quench was not armed is its choice (log entry 56). -/
def Sys2Proof.Claims.quenchResult : Prop :=
  (∀ (v : W16) (s : State), ∃ t : State, exec (.quenchArm v) s = .next t ∧ t.vnode = v.toNat ∧ t.pwr = s.pwr ∧ t.mem = s.mem ∧
    t.moulds = s.moulds ∧ bitOf (t.reg Reg.PWR_STATUS) 2 =
      (bitOf (s.reg Reg.PWR_STATUS) 2 || (decide (s.pwr.st = .ready) && decide (5000 ≤ v.toNat)))) ∧
  ∀ (v : W16) (s : State),
    (4625 < v.toNat → exec (.quench v) s = .next (s.setVnode v)) ∧
    (v.toNat ≤ 4625 → ∃ t : State, exec (.quench v) s = .next t ∧ t.vnode = v.toNat ∧ t.pwr.removing = false ∧
      t.pwr.standby = (s.pwr.standby && decide (3000 ≤ v.toNat)) ∧
      (s.pwr.st = .held ∨ s.pwr.st = .charging → t.pwr.st = s.pwr.st ∧ t.mem = s.mem ∧ t.pwr.saves = s.pwr.saves) ∧
      (s.pwr.st ≠ .held → s.pwr.st ≠ .charging → t.pwr.st = .held ∧ warmReseted s t 8 ∧
        (bitOf (s.reg Reg.PWR_STATUS) 2 = false → t.pwr.saves = s.pwr.saves) ∧
        (bitOf (s.reg Reg.PWR_STATUS) 2 = true → ∃ i : SaveImg, t.pwr.saves = s.pwr.saves.filter (fun j => j.slot ≠ s.pwr.nextSave) ++ [i] ∧
          i.slot = s.pwr.nextSave ∧ i.heat = s.heatNum ∧ i.fseq = s.pwr.fseq ∧ i.chain = s.heats.chain ∧
          (∀ j ∈ s.pwr.saves, j.qseq < i.qseq) ∧ t.pwr.nextSave = (s.pwr.nextSave + 1) % 8)))

/-- R436, R450 to R452: seating, the lever and the short pin. Opening the lever, or losing the pin, disconnects the input. -/
def Sys2Proof.Claims.hotSwap : Prop :=
  ∀ s : State,
    exec .moduleInsert s = .next { s with pwr := { s.pwr with mated := true, ejectHigh := true } } ∧
    exec .ejectNRelease s = .next { s with pwr := { s.pwr with ejectHigh := true } } ∧
    (∃ t : State, exec .ejectNAssert s = .next t ∧ supplyOnly s t ∧ inputOn t = false ∧ t.pwr.pinsOk = false ∧
      t.pwr = { s.pwr with ejectHigh := false, removing := true }) ∧
    ∃ t : State, exec .matedNRelease s = .next t ∧ supplyOnly s t ∧ inputOn t = false ∧ t.pwr.pinsOk = false ∧
      t.pwr = { s.pwr with mated := false, removing := true }

/-- R406, R409, R414, R415, R431, R436, R443, R450 to R452: the supply and the module's seating. -/
def Obligations.PowerInput : Prop :=
  Sys2Proof.Claims.inputStage ∧ Sys2Proof.Claims.quenchResult ∧ Sys2Proof.Claims.hotSwap

/-- R407, R413, R416, R422, R440: a cold power-up measures the bank and starts a cold bring-up once the reference is present and the node at 50 V;
the reference coming last starts it as well. A slot strap above 8 leaves the module `HELD` (R440, which the model follows beside R450: log entry
77). -/
def Sys2Proof.Claims.coldBringUp : Prop :=
  (∀ (ceff vin vnode : W16) (s : State),
    (s.pwr.st ≠ .charging ∨ s.pwr.seated = false → exec (.coldPowerUp ceff vin vnode) s = .next s) ∧
    (s.pwr.st = .charging → s.pwr.seated = true → ∃ t : State, exec (.coldPowerUp ceff vin vnode) s = .next t ∧
      t.reg Reg.PWR_BANK = ceff.setWidth 64 ∧ bitOf (t.reg Reg.PWR_STATUS) 3 = decide (ceff.toNat < 120) ∧ t.vnode = vnode.toNat ∧
      t.field Reg.PWR_INPUT 47 32 = vin.toNat ∧
      inputOn t = (inputOn s || (decide (4400 ≤ vin.toNat ∧ vin.toNat ≤ 6100) && s.pwr.pinsOk)) ∧
      t.pwr.alert.getLsbD 3 = (s.pwr.alert.getLsbD 3 || decide (ceff.toNat < 120)) ∧
      (mayPowerUp (s.setVnode vnode) → coldEnds s t) ∧
      (¬ mayPowerUp (s.setVnode vnode) → t.pwr.st = .charging ∧ t.mem = s.mem ∧ t.moulds = s.moulds ∧ t.cnt = s.cnt))) ∧
  ∀ s : State,
    let u := { s with pwr := { s.pwr with refclk := true } }
    (mayPowerUp u → ∃ t : State, exec .refclkDetect s = .next t ∧ t.pwr.refclk = true ∧ coldEnds s t) ∧
    (¬ mayPowerUp u → exec .refclkDetect s = .next u)

/-- R414, R417, R420, R421: the module leaves `HELD` once nothing holds it, and stays `HELD` while something does; a reset pin that rises while the
module charges lets a cold bring-up start. -/
def Sys2Proof.Claims.leavingHeld : Prop :=
  (∀ s : State, s.mayRise = true ↔
    s.pwr.st = .held ∧ s.pwr.rstLow = false ∧ s.pwr.tripped = false ∧ s.pwr.pinsOk = true ∧ 5000 ≤ s.vnode) ∧
  (∀ (v : W16) (s : State), ∃ t : State, exec (.heldExit v) s = .next t ∧ rises (s.setVnode v) t) ∧
  (∀ s : State, (s.pwr.rstLow = false → exec .rstNRelease s = .next s) ∧
    (s.pwr.rstLow = true →
      let u := { s with pwr := { s.pwr with rstLow := false } }
      (mayPowerUp u → ∃ t : State, exec .rstNRelease s = .next t ∧ t.pwr.rstLow = false ∧ coldEnds s t) ∧
      (¬ mayPowerUp u → ∃ t : State, exec .rstNRelease s = .next t ∧ t.pwr.rstLow = false ∧ rises u t))) ∧
  ∀ (x : BitVec 192) (s : State),
    (s.pwr.tripped = false ∨ (∃ i : Nat, i < 21 ∧ 85 < tempAt x i) →
      exec (.thermalTripRelease x) s = .next { s with pwr := { s.pwr with temps := x } }) ∧
    (s.pwr.tripped = true → (∀ i : Nat, i < 21 → tempAt x i ≤ 85) → ∃ t : State, exec (.thermalTripRelease x) s = .next t ∧
      t.pwr.temps = x ∧ t.pwr.tripped = false ∧ rises { s with pwr := { s.pwr with temps := x, tripped := false } } t)

/-- R414, R415, R417, R420, R421, R452: a low level of `RST_N` for less than 1 µs is ignored, one of 10 µs or more always resets the device, one
between may (a free bit, log entry 3); the removal sequence holds the reset back to the end of quench. The watchdog resets the device, counts a
bring-up that had not reached `READY`, and bring-up starts again. -/
def Sys2Proof.Claims.resetSources : Prop :=
  (∀ (ns : W32) (s : State),
    (ns.toNat < 1000 → exec (.rstNAssert ns) s = .next s) ∧
    (10000 ≤ ns.toNat → s.pwr.st = .charging ∨ (s.pwr.removing = true ∧ s.pwr.st ≠ .held) →
      exec (.rstNAssert ns) s = .next { s with pwr := { s.pwr with rstLow := true } }) ∧
    (10000 ≤ ns.toNat → s.pwr.st ≠ .charging → s.pwr.removing = false ∨ s.pwr.st = .held → ∃ t : State, exec (.rstNAssert ns) s = .next t ∧
      t.pwr.st = .held ∧ t.pwr.rstLow = true ∧ warmReseted s t 2 ∧ t.bootFails = s.bootFails) ∧
    (1000 ≤ ns.toNat → ns.toNat < 10000 →
      let u := { s with free := s.free + 1 }
      exec (.rstNAssert ns) s = if Config.freeBit s.free = true then exec (.rstNAssert 10000) u else .next u)) ∧
  ∀ s : State, (s.pwr.st = .held ∨ s.pwr.st = .charging → exec .watchdogTimeout s = .next s) ∧
    (s.pwr.st ≠ .held → s.pwr.st ≠ .charging → ∃ u t : State, exec .watchdogTimeout s = .next t ∧ warmReseted s u 5 ∧ u.pwr.st = .held ∧
      u.pwr.standby = s.pwr.standby ∧ u.pwr.tripped = s.pwr.tripped ∧ u.pwr.pinsOk = s.pwr.pinsOk ∧ u.pwr.rstLow = s.pwr.rstLow ∧
      u.vnode = s.vnode ∧ u.pwr.opt = s.pwr.opt ∧ u.pwr.bestSave = s.pwr.bestSave ∧
      u.bootFails = (if s.pwr.st = .ready then s.bootFails else min 15 (s.bootFails + 1)) ∧
      rises u t ∧ (s.pwr.standby = true → warmReseted s t 5))

/-- R407, R413 to R417, R420 to R422, R440, R452: resets and bring-up. -/
def Obligations.ResetAndBringUp : Prop :=
  Sys2Proof.Claims.coldBringUp ∧ Sys2Proof.Claims.leavingHeld ∧ Sys2Proof.Claims.resetSources

/-! ## Management bus -/

/-- R441, R442: while the standby domain runs, a block read sends its byte count, its bytes and the packet error code, and changes nothing
else; the alert response is the module's address in the upper seven bits of its byte, whose lowest bit is free (the code's polynomial and
the response's form are those of SMBus, log entry 80). -/
def Sys2Proof.Claims.busReads : Prop :=
  ∀ s : State,
    let sent (bs : List Byte) : Power := { s.pwr with smbus := s.pwr.smbus ++ [bs] }
    (∀ p ∈ [(Instr.status, (0x01 : Byte), leBytes 8 (devView s Reg.PWR_STATUS).toNat ++ leBytes 8 (devView s Reg.PWR_INPUT).toNat),
        (.temps, 0x02, (List.range 21).map (fun i => BitVec.ofNat 8 (tempAt s.pwr.temps i)) ++ [0, 0, 0]),
        (.capacity, 0x03, leBytes 8 (devView s Reg.SVC_CAPACITY).toNat),
        (.boot, 0x04, leBytes 8 (devView s Reg.PWR_BOOT_STATUS).toNat ++ leBytes 8 (devView s Reg.PWR_RST_CAUSE).toNat)],
      (s.pwr.standby = true → exec p.1 s = .next { s with pwr := sent (s.pwr.blockRead p.2.1 p.2.2) }) ∧
      (s.pwr.standby = false → exec p.1 s = .next s)) ∧
    (s.pwr.standby = true → exec .alertCause s = .next { s with pwr := { sent (s.pwr.blockRead 0x08 (leBytes 4 s.pwr.alert.toNat)) with
      alert := 0 } }) ∧
    (s.pwr.standby = false → exec .alertCause s = .next s) ∧
    (s.pwr.standby = true → s.pwr.alert ≠ 0 →
      let b : Byte := BitVec.ofNat 8 (2 * (0x40 + s.pwr.slotStrap.toNat) + b2n (Config.freeBit s.free))
      exec .alertResponse s = .next { s with free := s.free + 1, pwr := sent [b, packetErrorCode [0x19, b]] }) ∧
    (s.pwr.standby = false ∨ s.pwr.alert = 0 → exec .alertResponse s = .next s) ∧
    ∀ (code : Byte) (bs : List Byte), bs.length < 256 →
      (s.pwr.blockRead code bs).length = bs.length + 2 ∧ ((s.pwr.blockRead code bs).drop 1).take bs.length = bs ∧
      ((s.pwr.blockRead code bs).headD 0).toNat = bs.length

/-- R442: the certificate is read 32 B at a time from the pointer, which wraps from 255 to 0; a pointer above 255, and a write to a code other
than 0x10, are ignored and counted. -/
def Sys2Proof.Claims.identityPointer : Prop :=
  ∀ s : State, s.pwr.standby = true →
    (∀ v : W16, v.toNat ≤ 255 → exec (.identPtr v) s = .next { s with pwr := { s.pwr with identPtr := v.setWidth 8 } }) ∧
    (∀ v : W16, 255 < v.toNat → exec (.identPtr v) s = .next (s.count Reg.HOST_CNT_VIOL 1)) ∧
    (∃ t : State, exec .identRead s = .next t ∧ t.regs = s.regs ∧ t.mem = s.mem ∧
      t.pwr.identPtr.toNat = (s.pwr.identPtr.toNat + 1) % 256 ∧ ∃ bs : List Byte, t.pwr.smbus = s.pwr.smbus ++ [s.pwr.blockRead 0x11 bs] ∧
        bs.length = 32 ∧ ∀ i : Nat, i < 4 → (bs.drop (8 * i)).take 8 =
          leBytes 8 (devView s (Reg.PWR_IDENT + 8 * (4 * s.pwr.identPtr.toNat + i))).toNat) ∧
    (∀ (c : Byte) (v : W16), c ≠ 0x10 → exec (.smbusWriteIgnored c v) s = .next (s.count Reg.HOST_CNT_VIOL 1)) ∧
    ∀ v : W16, exec (.smbusWriteIgnored 0x10 v) s = exec (.identPtr v) s

/-- R436, R441 to R443: the management bus changes nothing but its read pointer and the alert bits. -/
def Obligations.ManagementBus : Prop := Sys2Proof.Claims.busReads ∧ Sys2Proof.Claims.identityPointer

/-! ## Reset, and what every step keeps -/

/-- R168: the registers of a mould after a reset, and a mould that is released from one. -/
def Obligations.MouldAtReset : Prop :=
  (∀ (s : State) (g : Nat), s.serving g = true → s.resetMoulds.mould g = { Mould.reset with running := true }) ∧
  ∀ m ∈ [Mould.reset, { Mould.reset with running := true }],
    (∀ r : Nat, m.getX r = 0) ∧ (∀ r : Nat, 1 ≤ r → r < 8 → m.getP r = false) ∧ (∀ r : Nat, m.getD r = voidImage) ∧
    (∀ k : Nat, m.getS k = 0) ∧ m.producers = [] ∧ m.pc = 0 ∧ ∀ a : Nat, m.dmem.get a = 0 ∧ m.ocache.get a = 0

/-- R11, R267, R315, R374, R400, R416, R430, R431: the device after a cold reset; what an HBM byte reads as is not defined (log entry 2);
HBM of no region is kept by its place, from `placeStart` on (log entry 78). -/
def Obligations.StateAtReset : Prop :=
  (∀ g : Nat, State.reset.mould g = Mould.reset) ∧ State.reset.cnt = 0 ∧ State.reset.reg Reg.PWR_RST_CAUSE = 0x100000001 ∧ bitOf (State.reset.reg Reg.HOST_STATUS) 1 = false ∧
  State.reset.leaseSid = 0 ∧ State.reset.host.sessions = [] ∧ (∀ n : Nat, n < 64 → State.reset.rgnAlloc n = false) ∧
  (∀ k : Nat, k < 32 → State.reset.reg (Reg.PWR_BKP + 8 * k) = 0) ∧ State.reset.heatRuns = false ∧
  (∀ a : Nat, a < 0x10000000000 → State.reset.mem.get a = Config.memByte 0 a) ∧
  (∀ a : Nat, placeStart ≤ a → a < placeEnd → State.reset.mem.get a = Config.memByte 0 a) ∧
  (∀ a : Nat, (0x10000000000 ≤ a ∧ a < placeStart) ∨ placeEnd ≤ a → State.reset.mem.get a = 0) ∧ fld State.reset.pwr.opt 19 16 = 3 ∧ fld State.reset.pwr.opt 15 8 = 2 ∧
  State.reset.pending = [] ∧ State.reset.memoriesOk = true


/-- Every step keeps every memory of the module in canonical form: HBM and flask, and the data memory, the operand cache and the checkpoint
of every mould. The form is the model's (log entry 2). -/
def Obligations.MemoriesStayCanonical : Prop :=
  ∀ s t : State, s.memoriesOk = true → step s = .next t → t.memoriesOk = true
end

