-- ==== Sys2Proof/Laws/Decode.lean ====
section
/-! SUPPORT. Fields of an instruction word: what a field reads in a word that is an OR of fields. -/
namespace Sys2Proof

theorem wordField_or (a b : W64) (lo n : Nat) : wordField (a ||| b) lo n = wordField a lo n ||| wordField b lo n := by
  ext i hi; simp [wordField]

/-- A field reads what was put in its place. -/
theorem wordField_put_same {n : Nat} (lo : Nat) (x : BitVec n) (h : lo + n ≤ 64) : wordField (putField lo x) lo n = x := by
  ext i hi
  have h1 : lo + i < 64 := by omega
  simp [wordField, putField, h1, BitVec.getLsbD_eq_getElem hi]

/-- A field reads zero where what was put lies elsewhere. -/
theorem wordField_put_other {k : Nat} (lo lo' n : Nat) (x : BitVec k) (h : lo' + k ≤ lo ∨ lo + n ≤ lo') :
    wordField (putField lo' x) lo n = 0 := by
  ext i hi
  simp only [wordField, putField, BitVec.getElem_extractLsb', BitVec.getLsbD_shiftLeft, BitVec.getLsbD_setWidth]
  rcases h with h | h
  · have : x.getLsbD (lo + i - lo') = false := BitVec.getLsbD_of_ge _ _ (by omega)
    simp [this]
  · have : lo + i < lo' := by omega
    simp [this]

theorem ofBool_beq_one (b : Bool) : (BitVec.ofBool b == 1#1) = b := by cases b <;> rfl

/-- A zero field leaves nothing. -/
theorem putField_zero (n lo : Nat) : putField lo (0#n) = 0#64 := by simp [putField]

theorem wordField_zero (lo n : Nat) : wordField 0#64 lo n = 0 := by simp [wordField]

/-- The head of a word in its own fields. -/
theorem wordField_head (h : Hdr) (maj mn lo n : Nat) (hl : lo + n ≤ 48) : wordField (encHead h maj mn) lo n = 0 := by
  simp only [encHead, wordField_or, putBit]
  rw [wordField_put_other _ _ _ _ (by omega), wordField_put_other _ _ _ _ (by omega), wordField_put_other _ _ _ _ (by omega),
    wordField_put_other _ _ _ _ (by omega)]
  simp

end Sys2Proof
end

