-- ==== Sys2Proof/Laws/Pair.lean ====
section
/-! SUPPORT. The pair that takes an instruction: what its step is, once for every instruction. -/
namespace Sys2Proof.Machine

theorem Ready.running {h : Hdr} {s : State} (hr : Ready h s) : (s.mould h.m.toNat).running = true := by
  have := hr.1
  simp only [Mould.issues, Bool.and_eq_true] at this
  exact this.1.1.1

theorem past_running (h : Hdr) (s : State) : (past h s).running = (s.mould h.m.toNat).running := by simp [past]

/-- A mould whose pair runs is not one just reset. -/
theorem past_ne_reset {h : Hdr} {s : State} (hr : Ready h s) : past h s ≠ Mould.reset := by
  intro e
  have h1 := past_running h s
  rw [e, Ready.running hr] at h1
  exact absurd h1 (by decide)

/-- An instruction of the pair that is taken. -/
theorem pairStep_ready {h : Hdr} {s : State} (hr : Ready h s) (f : State → State) :
    pairStep h s f = f (s.setMould h.m.toNat (past h s)) := pairStep_true h s f hr.1 hr.2

/-- An instruction of the pair that is taken and only touches its own mould. -/
theorem pairLocal_ready {h : Hdr} {s : State} (hr : Ready h s) (f : Mould → Mould) :
    pairLocal h s f = s.setMould h.m.toNat (f (past h s)) := by
  unfold pairLocal
  rw [pairStep_ready hr, State.updMould_setMould _ _ _ _ (past_ne_reset hr)]

/-- A tensor, move, check or synchronisation instruction that is taken within a heat. -/
theorem pairHeat_ready {h : Hdr} {s : State} (hr : InHeat h s) (i : Instr) (f : State → State) :
    pairHeat h i s f = f (s.setMould h.m.toNat (past h s)) := by
  rw [pairHeat_running _ _ _ _ hr.2, pairStep_ready hr.1]

@[simp] theorem past_getX (h : Hdr) (s : State) (r : Nat) : (past h s).getX r = (s.mould h.m.toNat).getX r := by simp [past]
@[simp] theorem past_getP (h : Hdr) (s : State) (r : Nat) : (past h s).getP r = (s.mould h.m.toNat).getP r := by
  simp [past, Mould.getP]
@[simp] theorem past_getD (h : Hdr) (s : State) (r : Nat) : (past h s).getD r = (s.mould h.m.toNat).getD r := by
  simp [past, Mould.getD]
@[simp] theorem past_pc (h : Hdr) (s : State) : (past h s).pc = (s.mould h.m.toNat).pc + 1 := by simp [past]
@[simp] theorem past_dmem (h : Hdr) (s : State) : (past h s).dmem = (s.mould h.m.toNat).dmem := by simp [past]
@[simp] theorem past_ocache (h : Hdr) (s : State) : (past h s).ocache = (s.mould h.m.toNat).ocache := by simp [past]
@[simp] theorem past_producers (h : Hdr) (s : State) : (past h s).producers = (s.mould h.m.toNat).producers := by simp [past]
@[simp] theorem past_queue (h : Hdr) (s : State) (q : Nat) : (past h s).queue q = (s.mould h.m.toNat).queue q := by
  simp [past, Mould.queue]

end Sys2Proof.Machine
end

