-- ==== Sys2Proof/Laws/Settle.lean ====
section
/-! SUPPORT. Settling where nothing can run, and a check on data that says when nothing can. -/
namespace Sys2Proof.Machine

/-- Folding a step that leaves s as it is. -/
theorem foldl_fixed {α β : Type} (f : β → α → β) (b : β) (l : List α) (h : ∀ a ∈ l, f b a = b) : l.foldl f b = b := by
  induction l with
  | nil => rfl
  | cons a t ih =>
    rw [List.foldl_cons, h a (by simp)]
    exact ih fun x hx => h x (by simp [hx])

/-- One pass does nothing where nothing can run. -/
theorem settlePass_still {s : State} (h : Still s) : settlePass s = (s, false) := by
  have h1 : ∀ g q, q < 6 → runHead s g q = none := by
    intro g q hq
    have := h.1 (.head g q)
    simpa [Site.run, hq] using this
  have h2 : ∀ r, r < 8 → runRiserQueue s r = none := by
    intro r hr
    have := h.1 (.riser r)
    simpa [Site.run, hr] using this
  unfold settlePass
  dsimp only
  rw [foldl_fixed _ (s, false) (s.moulds.map (·.1))]
  · apply foldl_fixed
    intro r hr
    simp [h2 r (List.mem_range.mp hr)]
  · intro g _
    apply foldl_fixed
    intro q hq
    simp [h1 g q (List.mem_range.mp hq)]

theorem settleN_still {s : State} (h : Still s) (n : Nat) : settleN n s = s := by
  cases n with
  | zero => rfl
  | succ n => simp [settleN, settlePass_still h]

/-- Settling only flushes the records that wait, where nothing can run after that. -/
theorem settle_flushed {s : State} (h : Still s.flushEnds) : settle s = s.flushEnds := by
  unfold settle
  dsimp only
  rw [settleN_still h]
  exact foldl_fixed _ _ _ fun g _ => h.2 g

/-- Settling does nothing where nothing can run and no record waits. -/
theorem settle_still {s : State} (h : Still s) (e : s.heats.endWait = []) : settle s = s := by
  have f : s.flushEnds = s := by simp [State.flushEnds, e]
  rw [settle_flushed (f.symm ▸ h), f]

/-! ## A check on data -/

/-- No queue holds anything, and no pair waits for its own queues. -/
def State.quiet (s : State) : Bool :=
  s.moulds.all (fun e => e.2.queues.isEmpty && (match e.2.wait with
    | .hend => false
    | .chkst _ => false
    | .barrier _ _ _ false => false
    | _ => true)) && s.risers.all (fun e => e.2.queue.isEmpty)

/-- A property of every value of a map and of its default. -/
theorem SMap.get_all {α : Type} (d : α) (m : SMap α) (p : α → Prop) (hd : p d) (h : ∀ e ∈ m, p e.2) (i : Nat) :
    p (SMap.get d m i) := by
  induction m with
  | nil => exact hd
  | cons e t ih =>
    obtain ⟨k, v⟩ := e
    unfold SMap.get
    split
    · exact h (k, v) (by simp)
    · exact ih fun e he => h e (by simp [he])

/-- The check looks at moulds and risers alone. -/
theorem State.quiet_congr {s t : State} (hm : t.moulds = s.moulds) (hr : t.risers = s.risers) : t.quiet = s.quiet := by
  simp only [State.quiet, hm, hr]

theorem SMap.set_all {α : Type} [DecidableEq α] (d : α) (m : SMap α) (k : Nat) (v : α) (p : α → Prop) (hv : p v) (h : ∀ e ∈ m, p e.2) :
    ∀ e ∈ SMap.set d m k v, p e.2 := by
  intro e he
  unfold SMap.set at he
  split at he
  · exact h e (List.mem_filter.mp he).1
  · rcases SMap.mem_ins m k v e he with rfl | he
    · exact hv
    · exact h e he

/-- Writing bytes lets nothing run. -/
theorem State.quiet_putByte {s : State} (g a : Nat) (b : Byte) (h : s.quiet = true) : (s.putByte g a b).quiet = true := by
  have key : ∀ f : Mould → Mould, (∀ m, (f m).queues = m.queues ∧ (f m).wait = m.wait) → (s.updMould g f).quiet = true := by
    intro f hf
    simp only [State.quiet, Bool.and_eq_true, List.all_eq_true] at h ⊢
    refine ⟨?_, h.2⟩
    refine SMap.set_all Mould.reset s.moulds g _ (fun m => m.queues.isEmpty = true ∧ (match m.wait with
      | .hend => false
      | .chkst _ => false
      | .barrier _ _ _ false => false
      | _ => true) = true) ?_ h.1
    rw [(hf _).1, (hf _).2]
    exact SMap.get_all Mould.reset s.moulds (fun m => m.queues.isEmpty = true ∧ (match m.wait with
      | .hend => false
      | .chkst _ => false
      | .barrier _ _ _ false => false
      | _ => true) = true) ⟨rfl, rfl⟩ h.1 g
  unfold State.putByte
  split
  · exact key _ fun m => ⟨rfl, rfl⟩
  · exact key _ fun m => ⟨rfl, rfl⟩
  · exact h
  · exact h

theorem State.quiet_putBytes (g : Nat) (bs : List Byte) : ∀ (s : State) (a : Nat), s.quiet = true → (s.putBytes g a bs).quiet = true := by
  induction bs with
  | nil => exact fun _ _ h => h
  | cons b t ih => exact fun s a h => ih _ _ (State.quiet_putByte g a b h)

theorem State.quiet_store {s : State} (g a : Nat) (bs : List Byte) (h : s.quiet = true) : (s.store g a bs).quiet = true := by
  refine State.quiet_putBytes g bs _ a ?_
  unfold State.rmw
  split
  · rw [State.quiet_congr (State.count_moulds ..) (State.count_risers ..)]
    exact h
  · exact h

/-- Posting an event lets nothing run. -/
theorem State.quiet_eventOf {s : State} (n e u : Nat) (fs : List (Nat × Nat × Nat)) (h : s.quiet = true) : (s.eventOf n e u fs).quiet = true := by
  simp only [State.eventOf, State.postEvent]
  split
  · exact h
  · rw [State.quiet_congr (State.count_moulds ..) (State.count_risers ..)]
    exact h

/-- Nor does a record that goes into the state stream. -/
theorem State.foldl_transmit_quiet (sid : W32) (l : List (List Byte)) : ∀ s : State,
    (l.foldl (fun s r => s.transmit sid 5 .stream r) s).quiet = s.quiet := by
  induction l with
  | nil => exact fun _ => rfl
  | cons r l ih => exact fun s => (ih _).trans rfl

theorem State.quiet_flushStream {s : State} (h : s.quiet = true) : s.flushStream.quiet = true := by
  unfold State.flushStream
  split
  · exact h
  · rename_i sid _
    exact (State.foldl_transmit_quiet sid (flushRecords (s.modeBit 11) s.host.credit s.host.streamOut).1 s).trans h

theorem State.quiet_ringPlace {s t : State} {r : RingRec} (e : s.ringPlace r = some t) (h : s.quiet = true) : t.quiet = true := by
  unfold State.ringPlace at e
  split at e
  · injection e with e
    exact e ▸ h
  · dsimp only at e
    split at e
    · injection e with e
      rw [← e]
      refine State.quiet_flushStream ?_
      generalize streamRecord r _ = bs
      have q : (s.ringStore bs).quiet = true := State.quiet_store _ _ _ (State.quiet_store _ _ _ h)
      rw [State.quiet_congr (s := s.ringStore bs) (by simp) (by simp)]
      exact q
    · cases e

theorem State.quiet_flushEnds {s : State} (h : s.quiet = true) : s.flushEnds.quiet = true := by
  have key : ∀ (l : List RingRec) (u : State), u.quiet = true → (flushEndsIn l u).quiet = true := by
    intro l
    induction l with
    | nil => exact fun _ h => h
    | cons r l ih =>
      intro u hu
      unfold flushEndsIn
      split
      · exact ih _ (State.quiet_ringPlace (by assumption) hu)
      · exact hu
  unfold State.flushEnds
  split
  · exact h
  · exact key _ s h

/-- Where the check holds nothing can run. -/
theorem State.quiet_still {s : State} (h : s.quiet = true) : Still s := by
  simp only [State.quiet, Bool.and_eq_true, List.all_eq_true] at h
  obtain ⟨hm, hr⟩ := h
  have hq : ∀ g, (s.mould g).queues = [] :=
    SMap.get_all Mould.reset s.moulds (fun m => m.queues = []) rfl fun e he => List.isEmpty_iff.mp (hm e he).1
  have hw : ∀ g, pairReady s g = s := by
    intro g
    have : (match (s.mould g).wait with
        | .hend => false
        | .chkst _ => false
        | .barrier _ _ _ false => false
        | _ => true) = true :=
      SMap.get_all Mould.reset s.moulds (fun m => (match m.wait with
        | .hend => false
        | .chkst _ => false
        | .barrier _ _ _ false => false
        | _ => true) = true) rfl (fun e he => (hm e he).2) g
    have e : (s.mould g).wait ≠ .hend ∧ (∀ r, (s.mould g).wait ≠ .chkst r) ∧ ∀ a b c, (s.mould g).wait ≠ .barrier a b c false := by
      refine ⟨?_, ?_, ?_⟩
      · intro hc
        rw [hc] at this
        simp at this
      · intro r hc
        rw [hc] at this
        simp at this
      · intro a b c hc
        rw [hc] at this
        simp at this
    unfold pairReady
    dsimp only
    split
    · rfl
    · split
      · exact absurd (by assumption) e.1
      · exact absurd (by assumption) (e.2.1 _)
      · exact absurd (by assumption) (e.2.2 _ _ _)
      · rfl
  have hx : ∀ r, (s.riser r).queue = [] :=
    SMap.get_all Riser.reset s.risers (fun x => x.queue = []) rfl fun e he => List.isEmpty_iff.mp (hr e he)
  refine ⟨?_, hw⟩
  intro x
  cases x with
  | head g q =>
    have e : (s.mould g).queue q = [] := by simp [Mould.queue, hq g, SMap.get]
    simp [Site.run, runHead, e]
  | riser r => simp [Site.run, runRiserQueue, hx r]

/-- The same with the key at hand. -/
theorem SMap.get_key {α : Type} (d : α) (m : SMap α) (i : Nat) (p : α → Prop) (hd : p d) (h : ∀ e ∈ m, e.1 = i → p e.2) :
    p (SMap.get d m i) := by
  induction m with
  | nil => exact hd
  | cons e t ih =>
    obtain ⟨k, v⟩ := e
    unfold SMap.get
    split
    · exact h (k, v) (by simp) (by simp_all)
    · exact ih fun e he => h e (by simp [he])

/-- Only queue q of mould g holds anything. -/
def State.onlyQueue (s : State) (g q : Nat) : Bool :=
  s.moulds.all (fun e => e.2.queues.all fun p => p.2.isEmpty || (e.1 == g && p.1 == q)) && s.risers.all (fun e => e.2.queue.isEmpty)

/-- Then nothing but that queue's head can run. -/
theorem State.onlyQueue_run {s : State} {g q : Nat} (h : s.onlyQueue g q = true) (y : Site) (hy : y ≠ .head g q) : y.run s = none := by
  simp only [State.onlyQueue, Bool.and_eq_true, List.all_eq_true, Bool.or_eq_true, beq_iff_eq] at h
  obtain ⟨hm, hr⟩ := h
  cases y with
  | head j k =>
    have e : (s.mould j).queue k = [] := by
      refine SMap.get_key Mould.reset s.moulds j (fun m => m.queue k = []) rfl fun e he hj => ?_
      refine SMap.get_key [] e.2.queues k (fun l => l = []) rfl fun p hp hk => ?_
      rcases hm e he p hp with h1 | h1
      · exact List.isEmpty_iff.mp h1
      · exact absurd (by rw [← hj, ← hk, h1.1, h1.2]) hy
    simp [Site.run, runHead, e]
  | riser r =>
    have hx : (s.riser r).queue = [] :=
      SMap.get_all Riser.reset s.risers (fun x => x.queue = []) rfl (fun e he => List.isEmpty_iff.mp (hr e he)) r
    simp [Site.run, runRiserQueue, hx]

/-- Of the engine queues only queue q of mould g holds anything, and its head waits; of the risers' only riser r's. -/
def State.onlyRiser (s : State) (g q r : Nat) : Bool :=
  s.moulds.all (fun e => e.2.queues.all fun p => p.2.isEmpty || (e.1 == g && p.1 == q)) && s.risers.all (fun e => e.2.queue.isEmpty || e.1 == r)
    && (runHead s g q).isNone

/-- Then nothing but that riser can run. -/
theorem State.onlyRiser_run {s : State} {g q r : Nat} (h : s.onlyRiser g q r = true) (y : Site) (hy : y ≠ .riser r) : y.run s = none := by
  simp only [State.onlyRiser, Bool.and_eq_true, List.all_eq_true, Bool.or_eq_true, beq_iff_eq, Option.isNone_iff_eq_none] at h
  obtain ⟨⟨hm, hr⟩, hh⟩ := h
  cases y with
  | head j k =>
    by_cases hj : j = g ∧ k = q
    · simp [Site.run, hj.1, hj.2, hh]
    · have e : (s.mould j).queue k = [] := by
        refine SMap.get_key Mould.reset s.moulds j (fun m => m.queue k = []) rfl fun e he hj' => ?_
        refine SMap.get_key [] e.2.queues k (fun l => l = []) rfl fun p hp hk => ?_
        rcases hm e he p hp with h1 | h1
        · exact List.isEmpty_iff.mp h1
        · exact absurd ⟨hj' ▸ h1.1, hk ▸ h1.2⟩ hj
      simp [Site.run, runHead, e]
  | riser k =>
    have hx : (s.riser k).queue = [] := by
      refine SMap.get_key Riser.reset s.risers k (fun x => x.queue = []) rfl fun e he hk => ?_
      rcases hr e he with h1 | h1
      · exact List.isEmpty_iff.mp h1
      · exact absurd (by rw [← hk, h1]) hy
    simp [Site.run, runRiserQueue, hx]

end Sys2Proof.Machine
end

