-- ==== Sys2Proof/Tests/Slice0.lean ====
section
/-! SUPPORT. Small tests. The words are written out from the encodings of R198 to R258, field by field, and three of them stand in the
spec as examples; the numbers of the later groups are those of the spec's worked examples, or its rules' corner values. -/
namespace Sys2Proof.Tests

open Sys2Proof Sys2Proof.Machine Sys2Proof.Num

/-- Header of an unguarded instruction of mould 0, and of one whose reserved fields are not zero. -/
def u0 : Hdr := ⟨0, false, 0, false⟩
def r0 : Hdr := ⟨0, false, 0, true⟩

/-! ## Words: one or more of every class -/

/-- The spec's example: `ADDI x5, x5, 64`. -/
theorem test_word_addi : decodeMoarax 0 0x0600294000000040 = .add u0 ⟨5, 5, .imm 64⟩ := by decide
/-- The spec's example: the same under `!p2`. -/
theorem test_word_addi_guarded : decodeMoarax 0 0x060A294000000040 = .add ⟨0, true, 2, false⟩ ⟨5, 5, .imm 64⟩ := by decide
/-- `MAJ` 0x01, `MIN` 0x07, `RD` 31, `RA` 1, `RB` 30. -/
theorem test_word_sra : decodeMoarax 7 0x0470F87C00000000 = .sra ⟨7, false, 0, false⟩ ⟨31, 1, .reg 30⟩ := by decide
/-- The same with bit 27, which R202 reserves. -/
theorem test_word_sra_reserved : decodeMoarax 0 0x0470F87C08000000 = .sra r0 ⟨31, 1, .reg 30⟩ := by decide
theorem test_word_lih : decodeMoarax 0 0x07F00840DEADBEEF = .lih u0 ⟨1, 1, 0xDEADBEEF⟩ := by decide
theorem test_word_fma : decodeMoarax 0 0x0830088640000000 = .fma u0 ⟨1, 2, 3, 4⟩ := by decide
/-- The spec's example: `BSUM NE, s3, x0, 0x0120`. -/
theorem test_word_bsum : decodeMoarax 0 0x0C30001880000120 = .bsum u0 3 1 0 0x120 := by decide
theorem test_word_pseti : decodeMoarax 0 0x0C90FF20FFFFFFFF = .pseti u0 7 31 2 0xFFFFFFFF := by decide
theorem test_word_ldd : decodeMoarax 0 0x10604A8000000008 = .ldd u0 ⟨9, 10, 8⟩ := by decide
theorem test_word_dmk : decodeMoarax 0 0x1400FFE08000FFFF = .dmk u0 ⟨63, 62, 1, 0xFFFF⟩ := by decide
theorem test_word_tbload : decodeMoarax 0 0x1810042191FFFC7F = .tbload u0 ⟨1, 2, 3, 4, 1, 7, 2047, 127⟩ := by decide
/-- The spec's example of class 0x08. -/
theorem test_word_spmm : decodeMoarax 0 0x200051800C742800 =
    .spmm u0 ⟨20, 24, 0, 6, 7, 2, 0, true, 1, 0, false, false, 0, 0⟩ := by decide
theorem test_word_prune : decodeMoarax 0 0x240004219000F140 = .prune u0 ⟨1, 2, 3, 4, 0, 0, 7, 2, false, false, 5⟩ := by decide
theorem test_word_vrun : decodeMoarax 0 0x2810F089C0000000 = .vrun u0 ⟨15, 1, 2, 3, 2⟩ := by decide
theorem test_word_ared : decodeMoarax 0 0x2C20042180000140 = .ared u0 ⟨1, 2, 3, 5⟩ := by decide
theorem test_word_return : decodeMoarax 0 0x3020042006000000 = .return_ u0 ⟨1, 2, 0, 3, 0, 0⟩ := by decide
theorem test_word_rupd : decodeMoarax 0 0x3400042F21740000 = .rupd u0 ⟨1, 2, 15, 4, 5, 6, true⟩ := by decide
theorem test_word_barrier : decodeMoarax 0 0x403007C00000001F = .barrier u0 15 true 31 := by decide
theorem test_word_digest : decodeMoarax 0 0x440003F08001BEEF = .digest u0 63 1 true 0xBEEF := by decide
/-- Reserved values: `MAJ` 0, and `MIN` 0x0F of class 0x01. -/
theorem test_word_reserved : decodeMoarax 0 0 = .reservedOpcode u0 ∧ decodeMoarax 0 0x04F0000000000000 = .reservedOpcode u0 := by decide
/-- No row of the table gives bits. -/
theorem test_table_gives_no_bits : decodeTableWord 64 0x0600294000000040 = none := by decide

/-! ## Ill-formed terms -/

theorem test_wf_reservedOpcode : (Instr.reservedOpcode r0).wellFormed = false := by decide
theorem test_wf_move : (Instr.move u0 ⟨1, 2, 0, 0, 0, 1, 0, 0⟩).wellFormed = false ∧ (Instr.mfill u0 ⟨1, 2, 0, 0, 0, 0, 1, 0⟩).wellFormed = false := by decide
theorem test_wf_prune : (Instr.prune u0 ⟨1, 2, 0, 0, 1, 0, 0, 0, false, false, 0⟩).wellFormed = false := by decide
theorem test_wf_grow : (Instr.grow u0 ⟨1, 2, 0, 0, 1, 0, 0, 0, false, true, 0⟩).wellFormed = false := by decide
theorem test_wf_compact : (Instr.compact u0 ⟨1, 2, 0, 0, 0, 0, 0, 0, false, true, 0⟩).wellFormed = false := by decide
theorem test_wf_routing : (Instr.rsel u0 ⟨0, 0, 0, 0, 1, 0⟩).wellFormed = false ∧ (Instr.dispatch u0 ⟨0, 0, 1, 0, 0, 0⟩).wellFormed = false ∧
    (Instr.return_ u0 ⟨0, 0, 0, 0, 0, 1⟩).wellFormed = false ∧ (Instr.combine u0 ⟨0, 0, 0, 0, 0, 1⟩).wellFormed = false ∧
    (Instr.gather u0 ⟨0, 0, 0, 1, 0, 0⟩).wellFormed = false ∧ (Instr.scatter u0 ⟨0, 0, 0, 0, 1, 0⟩).wellFormed = false ∧
    (Instr.tskip u0 ⟨0, 0, 0, 1, 0, 0⟩).wellFormed = false := by decide
theorem test_wf_barrierRelease : (Instr.barrierRelease true 1 0).wellFormed = false := by decide
theorem test_wf_packetArrival : (Instr.packetArrival 0 ⟨0, 0, .request, 0, 0, 0, List.replicate 545 0, 0⟩).wellFormed = false := by decide +kernel
theorem test_wf_linkState : (Instr.linkStateMessage 0 0 [(16, true)]).wellFormed = false := by decide
theorem test_wf_collectiveHeader : (Instr.collectiveHeader 0 0 2 ⟨0, 2, 0, 0, [1, 1, 1, 1, 1, 1], false, 0⟩).wellFormed = false := by decide
theorem test_wf_dispatchCount : (Instr.dispatchCount 0 0 0 (List.replicate 129 0)).wellFormed = false := by decide +kernel
theorem test_wf_ethernetFrame : (Instr.ethernetFrame ⟨1, 0, .arp, 0, [0, 0]⟩).wellFormed = false := by decide
theorem test_wf_goengoPacket : (Instr.goengoPacket ⟨1, 1, false, false, true, 0, 0, 0, 0, 0, 0, [], []⟩).wellFormed = false := by decide
theorem test_wf_handshake : (Instr.hello [] [] [] [] []).wellFormed = false ∧ (Instr.finish 0 [] []).wellFormed = false := by decide

/-! ## Number formats: the worked examples of 01_number_formats.md -/

/-- E6M9 code 0x4F40 is 1.625 × 2⁻⁹ (written there out of its fields). -/
theorem test_e6m9_value : Val.eqv (decode .e6m9 0x4F40) (.fin false 13 (-12)) = true := by decide +kernel
/-- A block of 470 and one of 464 in E4M3: scale 0x80 and code 0x77, and scale 0x7F and code 0x7E. -/
theorem test_scale_470 : chooseScale .e4m3 false [.fin false 470 0] = 0x80 ∧ (convert .e4m3 .rne 0 (.fin false 235 0)).1 = 0x77 := by decide +kernel
theorem test_scale_464 : chooseScale .e4m3 false [.fin false 464 0] = 0x7F ∧ (convert .e4m3 .rne 0 (.fin false 464 0)).1 = 0x7E := by decide +kernel
/-- The test vector of R46: rnd of elements 0 and 1. -/
theorem test_rounding_stream : streamWord 0x0123456789ABCDEF 1 7 0 = 0xD079AE11 ∧ streamWord 0x0123456789ABCDEF 1 7 1 = 0xD69DAB6A := by decide +kernel
/-- 693/512 as E4M3 with those words, and under RNE and RTZ. -/
theorem test_stochastic : (convert .e4m3 .sr 0xD079AE11 (.fin false 693 (-9))).1 = 0x3B ∧ (convert .e4m3 .sr 0xD69DAB6A (.fin false 693 (-9))).1 = 0x3A ∧
    (convert .e4m3 .rne 0 (.fin false 693 (-9))).1 = 0x3B ∧ (convert .e4m3 .rtz 0 (.fin false 693 (-9))).1 = 0x3A := by decide +kernel
/-- INT4 −8 becomes −7.5 in E2M3. -/
theorem test_int4_to_e2m3 : convert .e2m3 .rne 0 (decode .int4 8) = (0x3F, .magnitude) := by decide +kernel

/-! ## The reference order: the worked examples of 02_reference_order.md -/

/-- Small terms inside one block: 126 terms of 2⁻¹⁸ between 2¹⁶ and −2¹⁶ sum to 63 × 2⁻¹⁷. -/
theorem test_small_terms_in_a_block :
    (RefSum.total RefSum.plainCtx false ((List.range 128).map fun k =>
      (k, if k = 0 then decode .e4m3 0x78 else if k = 127 then decode .e4m3 0xF8 else decode .e4m3 0x01,
        if k = 0 ∨ k = 127 then decode .e4m3 0x78 else decode .e4m3 0x01))).1 = 0x39FC0000 := by decide +kernel
/-- Across segments they survive: 2¹⁶, 2⁻⁷ and −2¹⁶ combine to 2⁻⁷. -/
theorem test_small_terms_across_segments :
    RefSum.combine RefSum.plainCtx (RefSum.ofBits [(0, 0x47800000), (1, 0x3C000000), (2, 0xC7800000)]) = (0x3C000000, false) := by decide +kernel
/-- The wide rule in one block: 2²⁰, 2⁻³⁸ and −2²⁰. -/
theorem test_wide_rule : (RefSum.blockSum true [(.fin false 1 10, .fin false 1 10), (.fin false 1 (-24), .fin false 1 (-14)),
    (.fin true 1 10, .fin false 1 10)]).map Dy.toVal = some (.fin false 16 (-42)) := by decide +kernel

/-! ## The worked tile of 03_tensors_and_patterns.md -/

theorem test_worked_tile_pattern : (patternBytes 2 [3, 5, 127, 320, 16256]).drop 128 = [0x83, 0xC2, 0x1F, 0x08, 0x00] := by decide +kernel
theorem test_worked_tile_values : chooseScale .e4m3 false [.fin false 3 (-1), .fin true 1 (-1), .fin false 2 0, .fin false 1 (-2), .fin false 3 0] = 0x78 ∧
    [(.fin false 3 6 : Val), .fin true 1 6, .fin false 1 8, .fin false 1 5, .fin false 3 7].map (fun v => (convert .e4m3 .rne 0 v).1) =
      [0x74, 0xE8, 0x78, 0x60, 0x7C] := by decide +kernel

/-! ## The placement example of R270 -/

theorem test_hbm_place : hbmPlace 0x40000000 0x1000 0x400017E7 = (3, 1, 0x2001E7) ∧ hbmPlace 0x40000000 0x1000 0x400417E7 = (2, 1, 0x2003E7) ∧
    placeLocal 0x40000000 0x50000000 0x1000 2 1 0x2003E7 = some 0x400417E7 := by decide +kernel

/-! ## One step -/

/-- Mould 0, with registers set, takes one instruction. -/
def after (i : Instr) (x : SMap W64) (r : Nat) : Option W64 :=
  match step { State.reset with moulds := [(0, { Mould.reset with running := true, x := x })], pending := [i] } with
  | .next t => some ((t.mould 0).getX r)
  | _ => none

/-- R171: division by zero, and −2⁶³ by −1. -/
theorem test_division_corners : after (.div u0 ⟨3, 1, .reg 2⟩) [(1, 5)] 3 = some (BitVec.allOnes 64) ∧
    after (.rem u0 ⟨3, 1, .reg 2⟩) [(1, 5)] 3 = some 5 ∧
    after (.div u0 ⟨3, 1, .imm 0xFFFFFFFF⟩) [(1, 0x8000000000000000)] 3 = some 0x8000000000000000 ∧
    after (.rem u0 ⟨3, 1, .imm 0xFFFFFFFF⟩) [(1, 0x8000000000000000)] 3 = some 0 := by decide +kernel
/-- x0 discards a write; a source may be the destination; `IMM32` is sign-extended; `SRA` keeps the sign. -/
theorem test_scalar_forms : after (.add u0 ⟨0, 1, .imm 1⟩) [(1, 5)] 0 = some 0 ∧ after (.sub u0 ⟨1, 1, .reg 1⟩) [(1, 5)] 1 = some 0 ∧
    after (.add u0 ⟨2, 1, .imm 0xFFFFFFFF⟩) [(1, 5)] 2 = some 4 ∧
    after (.sra u0 ⟨2, 1, .imm 63⟩) [(1, 0x8000000000000000)] 2 = some (BitVec.allOnes 64) := by decide +kernel
/-- R203, R204: `LIH`, 1.0 + 2⁻²⁴ (a tie to even), and `FTOI` of −2.5 and of infinity. -/
theorem test_scalar_float : after (.lih u0 ⟨2, 1, 0xDEADBEEF⟩) [(1, 0x12345678)] 2 = some 0xDEADBEEF12345678 ∧
    after (.fadd u0 ⟨2, 1, 3, 0⟩) [(1, 0x3F800000), (3, 0x33800000)] 2 = some 0x3F800000 ∧
    after (.ftoi u0 ⟨2, 1, 0, 0⟩) [(1, 0xC0200000)] 2 = some (-2) ∧
    after (.ftoi u0 ⟨2, 1, 0, 0⟩) [(1, 0x7F800000)] 2 = some 0x7FFFFFFFFFFFFFFF := by decide +kernel
/-- R441: the standard's check value, the code of the nine bytes "123456789". -/
theorem test_packet_error_code : packetErrorCode ((List.range 9).map fun i => BitVec.ofNat 8 (49 + i)) = 0xF4 := by decide +kernel
/-- A step of the empty queue idles; a command leaves the queue. -/
theorem test_queue : step State.reset = .next State.reset ∧
    (match step { State.reset with pending := [.scrub, .noMasterTimeout] } with
      | .next t => some t.pending.length
      | _ => none) = some 1 := by
  refine ⟨rfl, by decide +kernel⟩

end Sys2Proof.Tests
end

