-- ==== Sys2Proof/Tests/Witness.lean ====
section
/-! SUPPORT. For every statement with hypotheses, states and operands that meet them: `witness_<statement>`. Mould 0 works in a
heat unless a name says otherwise. -/

-- One theorem at a time: each evaluates a step, and many at once take more memory than one check may.
set_option Elab.async false

namespace Sys2Proof.Tests

open Sys2Proof Sys2Proof.Machine Sys2Proof.Claims

def hd : Hdr := ⟨0, false, 0, false⟩
/-- A released mould outside a heat. -/
def freeMould : Mould := { Mould.reset with running := true }
/-- A mould in a running heat. -/
def heatMould : Mould := { Mould.reset with running := true, regs := [(Reg.MID_HEAT_STATE, 1)] }
def oneMould (m : Mould) : State := { State.reset with moulds := [(0, m)] }
def sF : State := oneMould freeMould
def sH : State := oneMould heatMould

theorem ready : Ready hd sH := ⟨by decide, by decide⟩
theorem readyFree : Ready hd sF := ⟨by decide, by decide⟩
theorem inHeat : InHeat hd sH := ⟨ready, by decide⟩

theorem calm_of (s : State) (h : s.quiet = true) (e : s.heats.endWait = []) : calm s := ⟨State.quiet_still h, e⟩

theorem alone_of (h : Hdr) (q : Nat) (w : State → Work) (s t : State) (h1 : InHeat h s) (h2 : (s.mould h.m.toNat).queue q = [])
    (h3 : (entered h s q w).heats.endWait = []) (h4 : (entered h s q w).onlyQueue h.m.toNat q = true)
    (h5 : unheld (entered h s q w) h.m.toNat q ((s.mould h.m.toNat).ser + 1) (atHead h s w)) (h6 : t.quiet = true) :
    alone h q w s t := ⟨h1, h2, h3, fun y hy => State.onlyQueue_run h4 y hy, h5, State.quiet_still h6⟩

/-! ## The pair -/

theorem witness_StepTakesFront : ({ sH with pending := [.cnt hd 1] } : State).pending = .cnt hd 1 :: [] ∧ sH.pending = [] := by decide

theorem witness_MoaraxDecodeOfEncode :
    ∃ w, (Instr.pset hd 1 2 3 4).hdr = some hd ∧ hd.rsv = false ∧ (Instr.pset hd 1 2 3 4).wellFormed = true ∧
      encodeMoarax (.pset hd 1 2 3 4) = some w := ⟨_, rfl, rfl, rfl, rfl⟩

/-- Also of `ScalarBinary32Result`, `PredicateInstructions`, `BranchResult`, `LoadResult`, `StoreResult`, `RegisterAndOperandCacheAccess`: they ask
only that the pair takes the instruction and its guard is true. -/
theorem witness_ScalarIntegerResult : Ready hd sH := ready

theorem witness_ScalarIntegerFrame : ∃ t, exec (.add hd ⟨1, 2, .reg 3⟩) sH = .next t := ⟨_, rfl⟩

/-- A false guard: p1 of mould 0 is 0. -/
theorem witness_FalseGuardOnlyRetires :
    let h : Hdr := ⟨0, false, 1, false⟩
    (Instr.fence h 8).hdr = some h ∧ (sH.mould 0).issues = true ∧ guardTrue h (sH.mould 0) = false ∧ pairOnly (.cnt h 1) = true ∧
      calm (sH.setMould 0 { sH.mould 0 with pc := (sH.mould 0).pc + 1 }) :=
  ⟨by decide, by decide, by decide, by decide, calm_of _ (by decide) (by decide)⟩

/-- A summary register that has posted; one that is pending; a wait with a value to post, and one whose producer has none. -/
theorem witness_SummaryReads :
    (Ready hd sH ∧ ∀ p ∈ (sH.mould 0).producers, p.k ≠ 2) ∧
    (let s := oneMould { heatMould with producers := [⟨2, 1, none⟩] }
     Ready hd s ∧ (∃ p ∈ (s.mould 0).producers, p.k = 2) ∧
       ∀ p ∈ (s.mould 0).producers.find? (fun p => p.k == 2), p.val = none) ∧
    let s := oneMould { heatMould with producers := [⟨2, 1, some 7⟩], wait := .sumGet 2 3 }
    (s.mould 0).producers.find? (fun p => p.k == 2) = some ⟨2, 1, some 7⟩ ∧ (s.mould 0).wait = .sumGet 2 3 :=
  ⟨⟨ready, by decide⟩, ⟨⟨by decide, by decide⟩, ⟨⟨2, 1, none⟩, by decide⟩, by intro p h; injection h with h; subst h; rfl⟩, by decide⟩

/-- The largest finite code, infinity and the least NaN code of binary32; the two zeros, and the least number of each sign. -/
theorem witness_PredicateInstructions_conditionCodes :
    ¬nan32Low 0x7F7FFFFF ∧ ¬nan32Low 0xFF800000 ∧ nan32Low 0x7F800001 ∧ order32Low 0x80000000 = order32Low 0 ∧
      order32Low 0x80000001 < order32Low 0 ∧ order32Low 0 < order32Low 1 := by
  unfold nan32Low order32Low
  decide

/-- `DOFF` on a base that stays in range and on one that leaves it at either end. -/
theorem witness_DescriptorInstructions :
    Ready hd sH ∧ (0 ≤ (imgBase ((sH.mould 0).getD 1) : Int) + 64 * ((sH.mould 0).getX 1).toInt) ∧
    (∃ m : Mould, m.running = true ∧ (imgBase (m.getD 1) : Int) + 64 * (m.getX 1).toInt < 0) ∧
    ∃ m : Mould, m.running = true ∧ 2 ^ 48 ≤ (imgBase (m.getD 1) : Int) + 64 * (m.getX 1).toInt :=
  ⟨ready, by decide +kernel, ⟨{ heatMould with x := [(1, -1)] }, by decide +kernel⟩, ⟨{ heatMould with x := [(1, 0x40000000000)] }, by decide +kernel⟩⟩

/-- A device whose region 0 is the first MiB of HBM. -/
def sR : State := { sH with regs := [(0x20000, 0), (0x20008, 0x100000), (0x20018, 0x8000000000000000)] }
/-- Sixteen binary32 elements at 0x1000. -/
def img : W512 := 0x1000000000000010000200000000000001
/-- Eight of them. -/
def img8 : W512 := 0x800000000000020000200000000000001
/-- The view of `img`. -/
def vw : View := { fmt := .e8m23, planes := 32, layout := .dense, gsize := 512, blk := 0, mx := false, region := 0, gcap := 0, zbm := false,
                   alias_ := false, tid := 1, dev := 0, base := 0x1000, soff := 0, ext := [16, 1, 1, 1, 1, 1], str := [0, 0, 0, 0, 0] }

theorem witness_ValidDescriptorShape : viewOf (validateImage sR img).1 = some vw := by decide +kernel

theorem witness_ValidElementsLieInRegion : viewOf (validateImage sR img).1 = some vw ∧ vw.layout ≠ .sparse ∧ vw.dev = sR.devAddr ∧
    vw.inShape 0 [0, 0, 0, 0, 0] = true ∧ vw.inShape 15 [0, 0, 0, 0, 0] = true := by decide +kernel

theorem witness_CheckAndCounterInstructions : InHeat hd sH ∧ (sH.mould 0).queue 0 = [] ∧ (sH.mould 0).queue 3 = [] ∧
    (sH.mould 0).queue 5 = [] := ⟨inHeat, by decide⟩

/-- `RUNNING`; a launch that has reached the mould; neither; and a pair that can retire `HEND`. -/
theorem witness_HeatInstructions :
    (Ready hd sH ∧ (sH.mould 0).reg Reg.MID_HEAT_STATE = 1) ∧
    (let s := oneMould { freeMould with launched := some 5 }
     Ready hd s ∧ (s.mould 0).reg Reg.MID_HEAT_STATE ≠ 1 ∧ (s.mould 0).launched = some 5) ∧
    (Ready hd sF ∧ (sF.mould 0).reg Reg.MID_HEAT_STATE ≠ 1 ∧ (sF.mould 0).launched = none) ∧
    (sH.mould 0).drained = true ∧ sH.mstate 0 ≠ Svc.draining ∧ sH.mstate 0 ≠ Svc.pendingEnable :=
  ⟨⟨ready, by decide⟩, ⟨⟨by decide, by decide⟩, by decide⟩, ⟨readyFree, by decide⟩, by decide⟩

/-- Queue 3 empty; not empty; a `FENCE` that waits and may go. -/
theorem witness_FenceResult :
    (InHeat hd sH ∧ ∀ k, k < 6 → (8 : BitVec 6).getLsbD k = true → (sH.mould 0).queue k = []) ∧
    (let s := oneMould { heatMould with queues := [(3, [.sig 1])] }
     InHeat hd s ∧ ∃ k, k < 6 ∧ (8 : BitVec 6).getLsbD k = true ∧ (s.mould 0).queue k ≠ []) ∧
    let s := oneMould { heatMould with wait := .fence 8 }
    (s.mould 0).wait = .fence 8 ∧ (s.mould 0).stopped = false ∧ ∀ k, k < 6 → (8 : BitVec 6).getLsbD k = true → (s.mould 0).queue k = [] :=
  ⟨⟨inHeat, by decide⟩, ⟨⟨⟨by decide, by decide⟩, by decide⟩, 3, by decide⟩, by decide⟩

/-- A first arrival at the largest counts of each scope, at the smallest, the arrival that completes a generation, and its release. -/
theorem witness_BarrierInstructions :
    (let s := oneMould { heatMould with x := [(1, 64), (2, 256), (3, 2)] }
     InHeat hd s ∧ (s.mould 0).drained = true ∧ SMap.get 0 (s.mould 0).arrivals 5 = SMap.get 0 (s.getBarrier false 0 5).taken 0 ∧
     SMap.get 0 (s.mould 0).arrivals (16 + 5) = SMap.get 0 (s.getBarrier true 0 5).taken 0 ∧
     (s.getBarrier false 0 5).arrived = [] ∧ (s.getBarrier true 0 5).arrived = [] ∧
     (1 < ((s.mould 0).getX 1).toNat ∧ ((s.mould 0).getX 1).toNat ≤ 64) ∧ (1 < ((s.mould 0).getX 2).toNat ∧ ((s.mould 0).getX 2).toNat ≤ 256) ∧
     1 < ((s.mould 0).getX 3).toNat) ∧
    (∃ b : Barrier, b.arrived ≠ [] ∧ b.arrived.length + 1 = b.count) ∧
    let b : Barrier := { (State.reset.getBarrier true 0 5) with done := [0] }
    let s := { oneMould { heatMould with wait := .barrier true 5 1 true } with barriers := [b] }
    (s.getBarrier true 0 5).done = [0] ∧ (s.mould 0).wait = .barrier true 5 1 true :=
  ⟨⟨⟨⟨by decide, by decide⟩, by decide⟩, by decide⟩, ⟨{ State.reset.getBarrier true 0 5 with arrived := [1], count := 2 }, by decide⟩,
   by decide⟩

/-- Tokens not issued and issued, a bad queue number, room in the last queue; a `QSIG` and a `QWAIT` at a head. -/
theorem witness_QueueTokens :
    (InHeat hd sH ∧ (sH.mould 0).tokIssued.getLsbD 15 = false ∧ ((sH.mould 0).queue 5).length < qDepth 5) ∧
    (let s := oneMould { heatMould with tokIssued := 0x8000 }
     InHeat hd s ∧ (s.mould 0).tokIssued.getLsbD 15 = true) ∧ 5 < (6 : BitVec 3).toNat ∧
    (let s := oneMould { heatMould with queues := [(5, [.sig 15])] }
     (s.mould 0).stopped = false ∧ ((s.mould 0).queue 5).head? = some (.sig 15) ∧
      ∀ k, k < 5 → ((s.mould 0).queue k).head? ≠ some (.sig 15)) ∧
    let s := oneMould { heatMould with queues := [(5, [.wait 15])], tokSignalled := 0x8000 }
    (s.mould 0).stopped = false ∧ (s.mould 0).queue 5 = .wait 15 :: [] ∧ (s.mould 0).tokSignalled.getLsbD 15 = true :=
  ⟨⟨inHeat, by decide⟩, ⟨⟨⟨by decide, by decide⟩, by decide⟩, by decide⟩, by decide, by decide, by decide⟩

/-! ## Queued instructions -/

def mv : MoveOps := ⟨1, 2, 0, 0, 0, 0, 0, 0⟩

theorem witness_QueuedInstructionIssues :
    (captured sH (.move hd mv)).isSome = true ∧ InHeat hd sH ∧ ((sH.mould 0).queue 3).length < qDepth 3 ∧
    (Work.prune ⟨0, 0, 0, 0, 0, 0, 0, 0, false, false, 3⟩ voidImage voidImage 0 0 false 0).sk (sH.mould 0) = some 3 :=
  ⟨by decide, inHeat, by decide, by decide⟩

/-- A full queue; a pair outside a heat; a waiting instruction whose queue has room. -/
theorem witness_QueuedInstructionWaits :
    (let s := oneMould { heatMould with queues := [(3, List.replicate 16 (.sig 1))] }
     (captured s (.move hd mv)).isSome = true ∧ InHeat hd s ∧ qDepth 3 ≤ ((s.mould 0).queue 3).length) ∧
    (Ready hd sF ∧ (sF.mould 0).reg Reg.MID_HEAT_STATE ≠ 1 ∧ (sF.mould 0).launched = none) ∧
    let s := oneMould { heatMould with wait := .room 3 (.sig 1) }
    (s.mould 0).wait = .room 3 (.sig 1) ∧ ((s.mould 0).queue 3).length < qDepth 3 :=
  ⟨⟨by decide, ⟨⟨by decide, by decide⟩, by decide⟩, by decide⟩, ⟨readyFree, by decide⟩, by decide⟩

/-- One entry that runs, and then nothing: a move between void descriptors. -/
def moving : State := oneMould { heatMould with queues := [(3, [.work 1 (.move mv voidImage voidImage)])] }
def moved : State := (runMove moving 0 mv voidImage voidImage).popHead 0 3

theorem witness_SettleFollowsChain : Chain [.head 0 3] moving moved ∧ moving.heats.endWait = [] ∧ 1 ≤ 4 * moving.queued + 3 :=
  ⟨⟨fun y hy => State.onlyQueue_run (by decide) y hy, moved, by decide +kernel, rfl, State.quiet_still (by decide +kernel)⟩, by decide, by decide⟩

theorem witness_MemoryMoves :
    (let w : State → Work := fun _ => .move mv voidImage voidImage
     alone hd 3 w sH ((runMove (entered hd sH 3 w) 0 mv voidImage voidImage).popHead 0 3)) ∧
    (let w : State → Work := fun _ => .mfill mv voidImage 0
     alone hd 3 w sH ((runMfill (entered hd sH 3 w) 0 mv voidImage 0).popHead 0 3)) ∧
    (let w : State → Work := fun _ => .digest voidImage 0 true 9
     alone hd 3 w sH ((runDigest (entered hd sH 3 w) 0 voidImage 0 true 9).popHead 0 3)) ∧
    viewOf img = some vw ∧ vw.dev = sR.devAddr ∧ (0xFFF0 : W64).toNat % 16 = 0 ∧ (0xFFF0 : W64).toNat + 16 ≤ 0x10000 :=
  ⟨alone_of _ _ _ _ _ inHeat (by decide) (by decide) (by decide) (by unfold unheld; decide +kernel) (by decide +kernel),
   alone_of _ _ _ _ _ inHeat (by decide) (by decide) (by decide) (by unfold unheld; decide +kernel) (by decide +kernel),
   alone_of _ _ _ _ _ inHeat (by decide) (by decide) (by decide) (by unfold unheld; decide +kernel) (by decide +kernel),
   by decide +kernel, by decide, by decide, by decide⟩

theorem witness_MoveFrame : (∃ vd, viewOf img = some vw ∧ viewOf img8 = some vd ∧ mv.rm ≠ 3 ∧ vw.ext ≠ vd.ext) ∧
    viewOf img = some vw ∧ vw.layout ≠ .sparse :=
  ⟨⟨{ vw with base := 0x2000, ext := [8, 1, 1, 1, 1, 1] }, by decide +kernel⟩, by decide +kernel, by decide⟩

theorem witness_RunStoreReadsBack : vw.layout ≠ .sparse ∧ vw.blk = 0 ∧ vw.zbm = false ∧ vw.dev = sR.devAddr ∧ vw.fmt.width % 8 = 0 ∧
    vw.gsize = 512 ∧ ([(0, 5), (15, 0xFFFFFFFF)].map (·.1)).Nodup ∧
    (∀ c ∈ [(0, 5), (15, 0xFFFFFFFF)], c.1 < vw.e 0 ∧ c.2 < 2 ^ vw.fmt.width) ∧
    ∀ i, i < vw.e 0 → ∀ a ∈ vw.elemBytes i [0, 0, 0, 0, 0], windowOf a = some .hbm ∧ sR.inTlog 0 a = false := by
  decide +kernel


/-! ## Engines -/

def po : ProdOps := ⟨1, 2, 0, 0, 0, 0, 0, false, 0, 0, false, false, 0, 0⟩
def pat : PatOps := ⟨1, 2, 0, 0, 0, 0, 0, 1, false, false, 3⟩

theorem done_of (r : RunRes) (h : (match r with
    | .done v => (v.popHead 0 0).quiet
    | _ => false) = true) : ∃ v, r = .done v ∧ (v.popHead 0 0).quiet = true := by
  cases r with
  | done v => exact ⟨v, rfl, h⟩
  | blocked => exact absurd h (by decide)
  | hold s => exact absurd h (by simp)

/-- The matrix queue: void operands, which every instruction takes. -/
theorem witness_MatrixInstructionsComplete :
    (let w : State → Work := fun _ => .tbload mv voidImage 0 0
     alone hd 0 w sH ((runTbload (entered hd sH 0 w) 0 mv voidImage 0 0).popHead 0 0)) ∧
    (∀ k : ProdKind, let n := match k with
       | .spout => normSpout po
       | .sprobe => normSprobe po
       | _ => normInner po
     let w : State → Work := fun _ => .product k n voidImage voidImage voidImage 0 0 none
     ∃ v, runProduct (entered hd sH 0 w) 0 k n voidImage voidImage voidImage 0 0 none = .done v ∧ alone hd 0 w sH (v.popHead 0 0)) ∧
    (let w : State → Work := fun _ => .accwr (normAccwr po) voidImage voidImage 0 none
     ∃ v, runAccwr (entered hd sH 0 w) 0 (normAccwr po) voidImage voidImage 0 none = .done v ∧ alone hd 0 w sH (v.popHead 0 0)) ∧
    let w : State → Work := fun _ => .accld (normAccld po) voidImage 0
    ∃ v, runAccld (entered hd sH 0 w) 0 (normAccld po) voidImage 0 = .done v ∧ alone hd 0 w sH (v.popHead 0 0) := by
  refine ⟨?_, ?_, ?_, ?_⟩
  · exact alone_of _ _ _ _ _ inHeat (by decide) (by decide) (by decide) (by unfold unheld; decide +kernel) (by decide +kernel)
  · intro k
    let n := match k with
       | .spout => normSpout po
       | .sprobe => normSprobe po
       | _ => normInner po
    obtain ⟨v, e, q⟩ := done_of (runProduct (entered hd sH 0 fun _ => .product k n voidImage voidImage voidImage 0 0 none) 0 k n voidImage
      voidImage voidImage 0 0 none) (by revert k; intro k; cases k <;> decide +kernel)
    refine ⟨v, e, ?_⟩
    cases k <;> exact alone_of _ _ _ _ _ inHeat (by decide) (by decide) (by decide) (by unfold unheld; decide +kernel) q
  · obtain ⟨v, e, q⟩ := done_of (runAccwr (entered hd sH 0 fun _ => .accwr (normAccwr po) voidImage voidImage 0 none) 0 (normAccwr po) voidImage
      voidImage 0 none) (by decide +kernel)
    exact ⟨v, e, alone_of _ _ _ _ _ inHeat (by decide) (by decide) (by decide) (by unfold unheld; decide +kernel) q⟩
  · obtain ⟨v, e, q⟩ := done_of (runAccld (entered hd sH 0 fun _ => .accld (normAccld po) voidImage 0) 0 (normAccld po) voidImage 0)
      (by decide +kernel)
    exact ⟨v, e, alone_of _ _ _ _ _ inHeat (by decide) (by decide) (by decide) (by unfold unheld; decide +kernel) q⟩


/-- An open sum of one element with one term, of tensor 1. -/
def sum1 : OpenSum := { tid := 1, origin := (0, 0), cls := .narrow, heat := 0, srs := false, wrs := false, nmap := .grid 0 0 16,
                        terms := [(0, [(0, 0x3F800000)])], old := false, prov := [⟨.epload 0 0, 0, 0, [], []⟩] }

theorem witness_AccumulatorTiles :
    (let m := { heatMould with acc := [(63, ⟨[], .opened, false, some sum1⟩)] }
     (m.getAcc 63).st = .opened ∧ (m.getAcc 63).sum = some sum1 ∧ (m.getAcc 0).st ≠ .opened ∧ sum1.tid ≠ { sum1 with tid := 2 }.tid) ∧
    sum1.prov.length = 1 ∧ sum1.terms.length ≤ RefSum.maxTerms ∧ heatMould.logUsed + 4 + 256 * sum1.terms.length ≤ 65536 := by decide

theorem witness_CombinationOrderFree (c : RefSum.SumCtx) :
    RefSum.combine c (RefSum.ofBits [(0, 0x3F800000), (1, 0x40000000)]) = RefSum.combine c (RefSum.ofBits [(0, 0x3F800000), (1, 0x40000000)]) ∧
    (RefSum.ofBits [(0, 0x3F800000), (1, 0x40000000)]).Perm (RefSum.ofBits [(0, 0x3F800000), (1, 0x40000000)]).reverse :=
  ⟨rfl, (List.reverse_perm _).symm⟩

theorem witness_ReductionMatchesCombination : [[(0, (0x3F800000 : W32))], [], [(1, 0xBF800000)]].flatten.length < 2 ^ 31 := by decide

theorem witness_PruneSelection : ([(3, Num.Val.fin false 1 0), (5, .fin true 1 0)].map (·.1)).Nodup ∧
    ∀ c ∈ [(3, Num.Val.fin false 1 0), (5, .fin true 1 0)], c.2.isNan = false := by decide

theorem witness_GrowRespectsLimits : (⟨3, [], [(0, 1)], 0, []⟩ : GrowScan).out = [] ∧ (⟨3, [], [(0, 1)], 0, []⟩ : GrowScan).taken = [] := by decide

theorem compactDone_of (f : State → W64 → State) (r : CompactRes) (h : (match r with
    | .done v p => (f v p).quiet
    | _ => false) = true) : ∃ v p, r = .done v p ∧ (f v p).quiet = true := by
  cases r with
  | done v p => exact ⟨v, p, rfl, h⟩
  | wait s n => exact absurd h (by simp)

theorem some_of {α : Type} (f : α → Bool) (r : Option α) (h : (match r with
    | some v => f v
    | none => false) = true) : ∃ v, r = some v ∧ f v = true := by
  cases r with
  | some v => exact ⟨v, rfl, h⟩
  | none => exact absurd h (by simp)

/-- Void operands; an empty edit slot, and one that holds an edit. -/
theorem witness_PatternInstructions :
    (let w : State → Work := fun u => .prune pat voidImage voidImage 0 0 (u.modeBit 1) 0
     let r := runPrune (entered hd sH 2 w) 0 pat voidImage voidImage 0 0 false
     alone hd 2 w sH (r.1.retireHead 0 2 1 r.2)) ∧
    (let w : State → Work := fun u => .grow pat voidImage voidImage 0 0 0 0 (pcbCheck u 0 voidImage 0) (u.modeBit 0) 0
     let h := hdrAlso hd (!sH.modeBit 0 && pat.dq != 0)
     ∃ r, runGrow (entered h sH 2 w) 0 pat voidImage voidImage 0 0 0 0 (pcbCheck (sH.setMould 0 (past h sH)) 0 voidImage 0) false = some r ∧
       alone h 2 w sH (r.1.retireHead 0 2 1 r.2)) ∧
    (let w : State → Work := fun u => .compact pat voidImage 0 0 (pcbCheck u 0 voidImage 0) 0 0
     ∃ v p, runCompact (entered hd sH 0 w) 0 pat voidImage 0 0 (pcbCheck (sH.setMould 0 (past hd sH)) 0 voidImage 0) 0 = .done v p ∧
       alone hd 0 w sH (v.retireHead 0 0 1 p)) ∧
    (sH.mould 0).getEdit 0 = none ∧
    let s := oneMould { heatMould with edit := [(0, some ⟨1, 0, 0, (0, 0), [], []⟩)] }
    (s.mould 0).getEdit 0 = some ⟨1, 0, 0, (0, 0), [], []⟩ ∧ ({ pat with discard := true } : PatOps).discard = true := by
  refine ⟨?_, ?_, ?_, by decide, by decide⟩
  · exact alone_of _ _ _ _ _ inHeat (by decide) (by decide +kernel) (by decide +kernel) (by unfold unheld; decide +kernel) (by decide +kernel)
  · intro w h
    obtain ⟨r, e, q⟩ := some_of (fun r : State × W64 => (r.1.retireHead 0 2 1 r.2).quiet)
      (runGrow (entered h sH 2 w) 0 pat voidImage voidImage 0 0 0 0 (pcbCheck (sH.setMould 0 (past h sH)) 0 voidImage 0) false) (by decide +kernel)
    exact ⟨r, e, alone_of _ _ _ _ _ ⟨⟨by decide, by decide⟩, by decide⟩ (by decide) (by decide +kernel) (by decide +kernel)
      (by unfold unheld; decide +kernel) q⟩
  · intro w
    obtain ⟨v, p, e, q⟩ := compactDone_of (fun v p => v.retireHead 0 0 1 p)
      (runCompact (entered hd sH 0 w) 0 pat voidImage 0 0 (pcbCheck (sH.setMould 0 (past hd sH)) 0 voidImage 0) 0) (by decide +kernel)
    exact ⟨v, p, e, alone_of _ _ _ _ _ inHeat (by decide) (by decide +kernel) (by decide +kernel) (by unfold unheld; decide +kernel) q⟩

def vo : VrunOps := ⟨0, 0, 1, 2, 0⟩

theorem vecDone_of (f : State → W64 → State) (r : VecRes) (h : (match r with
    | .done v p => (f v p).quiet
    | _ => false) = true) : ∃ v p, r = .done v p ∧ (f v p).quiet = true := by
  cases r with
  | done v p => exact ⟨v, p, rfl, h⟩
  | wait s n => exact absurd h (by simp)

/-- A program load at address 0, and a launch of a slot that is not valid, which posts 0. -/
theorem witness_VectorInstructions :
    (let w : State → Work := fun _ => .epload 0 0
     alone hd 1 w sH ((runEpload (entered hd sH 1 w) 0 0 0).popHead 0 1)) ∧
    (let w : State → Work := fun _ => .vrun vo 0 (heatMould.mapImages 0) (heatMould.scalars 1) true [] 0
     let n := if ((w sH).sk (past hd sH)).isSome then 1 else 0
     ∃ v p, runVrun (entered hd sH 1 w) 0 vo 0 (heatMould.mapImages 0) (heatMould.scalars 1)
         (launchCheck (sH.setMould 0 (past hd sH)) 0 0 0) [] = .done v p ∧ alone hd 1 w sH (v.retireHead 0 1 n p)) := by
  refine ⟨?_, ?_⟩
  · exact alone_of _ _ _ _ _ inHeat (by decide) (by decide +kernel) (by decide +kernel) (by unfold unheld; decide +kernel) (by decide +kernel)
  · intro w n
    obtain ⟨v, p, e, q⟩ := vecDone_of (fun v p => v.retireHead 0 1 n p)
      (runVrun (entered hd sH 1 w) 0 vo 0 (heatMould.mapImages 0) (heatMould.scalars 1)
         (launchCheck (sH.setMould 0 (past hd sH)) 0 0 0) []) (by decide +kernel)
    exact ⟨v, p, e, alone_of _ _ _ _ _ inHeat (by decide) (by decide +kernel) (by decide +kernel) (by unfold unheld; decide +kernel) q⟩

/-- Values without a NaN, and a NaN. -/
theorem witness_VectorInstructions_summary : (Num.ofF32 0x3F800000).isNan = false ∧ (Num.ofF32 0x80000000).isNan = false ∧
    (Num.ofF32 0x7FC00000).isNan = true := by decide +kernel

/-- A score that is chosen, and one left out. -/
theorem witness_ExpertSelection : [Num.Val.fin false 1 0, .fin false 2 0][0]? = some (.fin false 1 0) ∧ (Num.Val.fin false 1 0).isNan = false ∧
    ∀ x ∈ selectExperts 1 [Num.Val.fin false 1 0, .fin false 2 0], x.1 ≠ 0 := by decide +kernel

/-- The largest code of a finite binary16 value, and the extreme codes of an integer format. -/
theorem witness_ConversionResults :
    (Num.Fmt.e5m10 ≠ .e8m0 ∧ 0x7BFF < 2 ^ Num.Fmt.e5m10.width ∧ (Num.decode .e5m10 0x7BFF).isFin = true) ∧
    ((0x81 : Nat) < 2 ^ Num.Fmt.int8.width ∧ (Num.decode .int8 0x81).isFin = true ∧ 0x81 ≠ 2 ^ (Num.Fmt.int8.width - 1)) ∧
    (Num.convert .e5m10 .rne 0 (.fin false 1 20)).2 = .magnitude := by decide +kernel


/-! ## Runner and risers -/

/-- Group 0 holds this device alone, and moulds 0 and 1 may name it; memory is known. -/
def sG : State := { sR with regs := sR.regs ++ [(0x44000, 0x400000000001), (0x44008, 3)], mem := Mem.empty }

def co : CollOps := ⟨1, 2, 0, 3⟩
def collWork (k : CollKind) (u : State) : Work :=
  .coll k co ((u.mould 0).getD 1) ((u.mould 0).getD 2) ((u.mould 0).descWords ((u.mould 0).getX 0)).1
    ((u.mould 0).descWords ((u.mould 0).getX 0)).2 0 none

theorem chain_one (u : State) (g q : Nat) (hq : q < 6) (ho : u.onlyQueue g q = true) (h : (runHead u g q).any State.quiet = true) :
    ∃ v, Chain [.head g q] u v ∧ 1 ≤ 4 * u.queued + 3 := by
  obtain ⟨v, e, c⟩ := Option.any_eq_true .. |>.mp h
  exact ⟨v, ⟨fun y hy => State.onlyQueue_run ho y hy, v, by simpa only [Site.run, if_pos hq] using e, rfl, State.quiet_still c⟩, by omega⟩

/-- The group that the descriptor at address 0 names is not valid: the collective posts at once and its entry retires. -/
theorem witness_RunnerInstructions_collectives (k : CollKind) :
    InHeat hd sH ∧ ((sH.mould 0).queue 4).length < 8 ∧ (entered hd sH 4 (collWork k)).heats.endWait = [] ∧
      ∃ v, Chain [.head 0 4] (entered hd sH 4 (collWork k)) v ∧ 1 ≤ 4 * (entered hd sH 4 (collWork k)).queued + 3 :=
  ⟨inHeat, by decide, by cases k <;> decide +kernel,
   chain_one _ 0 4 (by decide) (by cases k <;> decide +kernel) (by cases k <;> decide +kernel)⟩

/-- A bad descriptor address; and a first issue of two, with room for it. -/
theorem witness_RunnerInstructions_issue :
    (fld (([] : List W64).getD 0 0) 6 5 ≠ 3 ∧ 0 ∉ sH.lmask 0) ∧
    (let de : List W64 := [0x100000000, 0]
     collRefused sG 0 .ared img voidImage de true = false ∧ fld (de.getD 0 0) 6 5 ≠ 3 ∧ sG.runner.finished = [] ∧
       sG.findColl (collGrp de) (collCseq de) = none ∧ 1 ∈ sG.lmask (collGrp de) ∧ sG.runner.early = [] ∧
       sG.groupMembers (collGrp de) = some [0] ∧ sG.runner.down = []) := by decide +kernel

theorem routeDone_of (f : State → W64 → State) (r : RouteRes) (h : (match r with
    | .done v p => (f v p).quiet
    | _ => false) = true) : ∃ v p, r = .done v p ∧ (f v p).quiet = true := by
  cases r with
  | done v p => exact ⟨v, p, rfl, h⟩
  | wait s => exact absurd h (by simp)

def ro : RouteOps := ⟨1, 2, 0, 0, 0, 3⟩

/-- Void operands, which every routing instruction takes. -/
theorem witness_RunnerInstructions_routing : ∀ p ∈ routeOps,
    let de : List W64 × Bool := if p.2.2.2 then (sH.mould 0).descWords 0 else ([], true)
    let w (_ : State) : Work := .route p.2.1 ro voidImage voidImage voidImage 0 0 de.1 de.2 0
    let n := if p.2.1 = .rsel ∨ p.2.1 = .dispatch ∨ p.2.1 = .tskip then 1 else 0
    ∃ v z, runRoute (entered hd sH p.2.2.1 w) 0 p.2.1 voidImage voidImage voidImage 0 0 de.1 de.2 = .done v z ∧
      alone hd p.2.2.1 w sH (v.retireHead 0 p.2.2.1 n z) := by
  have a : ∀ r ∈ routeOps.map (·.2),
      let k := r.1
      let q := r.2.1
      let de : List W64 × Bool := if r.2.2 then (sH.mould 0).descWords 0 else ([], true)
      let w (_ : State) : Work := .route k ro voidImage voidImage voidImage 0 0 de.1 de.2 0
      let n := if k = .rsel ∨ k = .dispatch ∨ k = .tskip then 1 else 0
      (match runRoute (entered hd sH q w) 0 k voidImage voidImage voidImage 0 0 de.1 de.2 with
        | .done v p => (v.retireHead 0 q n p).quiet
        | _ => false) = true ∧ (sH.mould 0).queue q = [] ∧ (entered hd sH q w).heats.endWait = [] ∧
      (entered hd sH q w).onlyQueue 0 q = true ∧ ((entered hd sH q w).mould 0).stopped = false ∧
      ((entered hd sH q w).mould 0).mustWait q 1 (atHead hd sH w) = false ∧ (atHead hd sH w).hitsError (entered hd sH q w) = false ∧
      ((entered hd sH q w).mould 0).engWait = .none ∧ (entered hd sH q w).fallsBack 0 = false := by
    decide +kernel
  intro p hp de w n
  obtain ⟨h1, h2, h3, h4, h5, h6, h7, h8, h9⟩ := a p.2 (List.mem_map.mpr ⟨p, hp, rfl⟩)
  obtain ⟨v, z, e, q⟩ := routeDone_of (fun v z => v.retireHead 0 p.2.2.1 n z) _ h1
  exact ⟨v, z, e, alone_of _ _ _ _ _ inHeat h2 h3 h4 ⟨h5, h6, h7, fun _ => h8, fun _ => h9⟩ q⟩

theorem riserDone_of (f : State → W64 → State) (r : RiserRes) (h : (match r with
    | .done v p => (f v p).quiet
    | _ => false) = true) : ∃ v p, r = .done v p ∧ (f v p).quiet = true := by
  cases r with
  | done v p => exact ⟨v, p, rfl, h⟩
  | wait s c => exact absurd h (by simp)

/-- `RPROG` of slot 15 on riser 7. -/
theorem witness_RiserInstructions_commands :
    let i : Instr := .rprog hd 15 0 7
    ∃ w, captured sG i = some (hd, 5, w) ∧ InHeat hd sG ∧ (sG.mould 0).queue 5 = [] ∧
      let u := entered hd sG 5 w
      let e := atHead hd sG w
      let d := u.updRiser 7 fun x => { x with queue := x.queue ++ [⟨0, e, 0, 0, 0⟩] }
      riserTarget u e = some 7 ∧ (∀ k, k < 8 → ∀ c ∈ (u.riser k).queue, c.g ≠ 0) ∧ (u.riser 7).queue = [] ∧ (u.riser 7).stopped = false ∧
      (u.riser 7).recover = false ∧ e.hitsError d = false ∧ unheld u 0 5 ((sG.mould 0).ser + 1) e ∧ u.heats.endWait = [] ∧
      (∀ y : Site, y ≠ .head 0 5 → y.run u = none) ∧ (∀ y : Site, y ≠ .riser 7 → y.run d = none) ∧
      ∃ v p, runRiserCmd d 7 ⟨0, e, 0, 0, 0⟩ = .done v p ∧
        Still ((v.updRiser 7 fun x => { x with queue := x.queue.tail, recover := x.recover || x.opened.isSome }).retireHead 0 5 e.serOf p) := by
  refine ⟨_, rfl, ⟨⟨by decide, by decide⟩, by decide⟩, by decide, ?_⟩
  intro u e d
  obtain ⟨v, p, e1, q⟩ := riserDone_of (fun v p => (v.updRiser 7 fun x =>
    { x with queue := x.queue.tail, recover := x.recover || x.opened.isSome }).retireHead 0 5 e.serOf p)
    (runRiserCmd d 7 ⟨0, e, 0, 0, 0⟩) (by decide +kernel)
  exact ⟨by decide +kernel, by decide +kernel, by decide +kernel, by decide +kernel, by decide +kernel, by decide +kernel,
    by unfold unheld; decide +kernel, by decide +kernel, fun y hy => State.onlyQueue_run (by decide +kernel) y hy,
    fun y hy => State.onlyRiser_run (g := 0) (q := 5) (by decide +kernel) y hy, v, p, e1, State.quiet_still q⟩

/-- A sparse tensor of one tile. -/
def vs : View := { vw with layout := .sparse, ext := [16, 16, 1, 1, 1, 1] }
/-- A shard of one chunk, its journal at 0x8000 and its memory zero. -/
def sh : Shard := ⟨vs, 0, 0, { readPcb sG 0 0 with nnzMax := 16384 }, 0x8000, 0, 0⟩
/-- The device in heat 1. -/
def sG1 : State := { sG with regs := sG.regs ++ [(Reg.HOST_HEAT, 1)] }

/-- A chunk of this heat, of a later one, one that is bad, one that is claimed; an audit that matches. -/
theorem witness_RiserInstructions_chunks :
    sG.chunkOpen 0 0 0 = false ∧ (sh.jnlAt sG 0).cheat = sG.heatNum ∧
    sG.heatNum < (sh.jnlAt { sG with mem := ⟨[(0x8002, 1)], []⟩ } 0).cheat ∧
    ((sh.jnlAt sG1 0).cheat < sG1.heatNum ∧ (sh.jnlAt sG1 0).bad = false ∧ sh.ch = 1 ∧
      (sh.jnlAt { sG1 with mem := ⟨[(0x8008, 16)], []⟩ } 0).bad = true) ∧
    sh.claimed { sG1 with risers := [(0, { Riser.reset with claims := [(1, 0, 5)] })] } 0 = true ∧
    ∀ c, c < sh.ch → sh.wdig sG c = (sh.jnlAt sG c).wdig ∧ sh.sdig sG c (sh.jnlAt sG c).bank = (sh.jnlAt sG c).sdig := by decide +kernel

end Sys2Proof.Tests
end

