-- ==== Sys2Proof/Tests/WitnessEvents.lean ====
section
/-! SUPPORT. The witnesses `witness_<statement>` of the statements about what reaches the module from outside: its events, its
host and its supply. -/

-- One theorem at a time: each evaluates a step, and many at once take more memory than one check may.
set_option Elab.async false

namespace Sys2Proof.Tests

open Sys2Proof Sys2Proof.Machine Sys2Proof.Claims

/-- The device in reset with known memory and some registers set. -/
def rg (l : List (Nat × W64)) : State := l.foldl (fun s p => s.setReg p.1 p.2) { State.reset with mem := Mem.empty }
def withMould (s : State) (m : Mould) : State := { s with moulds := [(0, m)] }
/-- `calm`, as a check that can be evaluated. -/
def calmB (s : State) : Bool := s.quiet && decide (s.heats.endWait = [])
theorem calmB_calm (s : State) (h : calmB s = true) : calm s := by
  simp only [calmB, Bool.and_eq_true, decide_eq_true_eq] at h
  exact ⟨State.quiet_still h.1, h.2⟩

/-! ## Engines and risers -/

def pushing : State := withMould (rg []) { heatMould with engWait := .push [5, 6] 3 }
/-- An empty product whose group has overflowed. -/
def redoing : State := withMould (rg [])
  { heatMould with engWait := .recomp [0] 3, queues := [(0, [.work 1 (.accwr (normAccwr po) voidImage voidImage 0 none)])] }
/-- A `COMPACT` that waits at its second step, of a tensor that has become void. -/
def compacting : State := withMould (rg [])
  { heatMould with queues := [(0, [.work 1 (.compact pat voidImage 0 0 false 7 2)])] }

/-- A pending enable that may go on, and one that may not; sums of the two fields above 24 and at it; a push with room, in full; one without;
an overflowed group and none; a `COMPACT` that is done at its second step. -/
theorem witness_EngineEvents_state :
    (let m := { Mould.reset with ftqPend := true, regs := [(Reg.VEC_CFG, 0)] }
     m.ftqPend = true ∧ m.queue 1 = [] ∧ m.ftq = [] ∧ bitOf (m.reg Reg.VEC_CFG) 0 = false) ∧
    (let m := { Mould.reset with queues := [(1, [.sig 1])], regs := [(Reg.VEC_CFG, 0)] }
     m.queue 1 ≠ [] ∧ bitOf (m.reg Reg.VEC_CFG) 0 = false) ∧
    (24 < fld 0x91000 20 16 + fld 0x91000 12 8 ∧ fld 0x80F00 20 16 + fld 0x81000 12 8 ≤ 24) ∧
    ((pushing.mould 0).engWait = .push [5, 6] 3 ∧ (pushing.mould 0).ftq.length + [5, 6].length ≤ 4 ∧
     calmB ((pushing.updMould 0 fun m =>
       { ((m.pushGroup [5, 6]).setReg Reg.MENG_FLAGS 3).orReg Reg.MENG_FLAGS_STICKY 3 with engWait := .none }).popHead 0 0) = true) ∧
    (let m := { heatMould with engWait := .push [5, 6] 3, ftq := [⟨1, true, 3⟩, ⟨2, false, 0⟩, ⟨3, false, 0⟩] }
     4 < m.ftq.length + [5, 6].length) ∧
    (recomputeHead redoing 0).any calmB = true ∧ (pushing.mould 1).engWait = .none ∧
    ((compacting.mould 0).queue 0 = [.work 1 (.compact pat voidImage 0 0 false 7 2)] ∧ (compacting.mould 0).stopped = false ∧
     (match runCompact compacting 0 pat voidImage 0 0 false 2 with
     | .done v p => calmB (v.retireHead 0 0 7 p)
     | _ => false) = true) := by
  decide +kernel

/-- Comparisons on, off, and a mould that has failed. With 63 others in service the crucible is alive; with all but mould 0 out it is not. -/
theorem witness_EngineEvents_checks :
    ((rg []).hchk = true ∧ (rg []).serving 0 = true ∧ (rg []).crucibleAlive 0 = true ∧ (rg [(Reg.SVC_CFG, 0)]).hchk = false ∧
      (rg [(mctlOff 0, 0x40)]).serving 0 = false) ∧
    (let s := rg ((List.range 63).map fun i => (mctlOff (i + 1), 0x20))
     s.serving 0 = true ∧ s.crucibleAlive 0 = false) ∧
    calmB (((rg []).raiseFault { mech := 2, unit := 0, cls := .masked, action := 0, detail := ((rg []).mould 0).detail }).updMould 0
      fun m => { m with ftqPend := false }.setReg Reg.VEC_CFG 0) = true := by decide +kernel

/-- The image of a sparse tensor of one tile. -/
def imgS : W512 := 0x100000001000000000000100000500000000000001
/-- Riser 0 owns it by its entry 0, in a region of its stack; the chunk's journal entry holds these bytes at 0x8000. -/
def owning (j : List Host.Cell) (q : Riser) : State :=
  { rg [(rgnOff Reg.MEM_RGN_LIMIT 0, 0x100000), (rgnOff Reg.MEM_RGN_PLACE 0, 0x8000000000000000),
      (rgnOff Reg.MEM_RGN_CTL 0, 0x8000000000000000), (shdOff 0 0 0, 0x8000000000000001), (shdOff 0 0 2, 0x2000), (shdOff 0 0 3, 0x8000)] with
    mem := ⟨(0x2001, 0x40) :: j, []⟩, risers := [(0, q)] }

/-- A riser that owns nothing; a chunk that may be served, a bad one, a `COMMITTED` one, a claimed one. -/
theorem witness_RiserEvents_fetch :
    (rg []).ownedShard 0 1 imgS = none ∧
    (∀ p ∈ [([], Riser.reset, 0, false, false), ([(0x8008, 16)], Riser.reset, 0, true, false), ([(0x8008, 3)], Riser.reset, 3, false, false),
        ([], { Riser.reset with claims := [(1, 0, 5)] }, 0, false, true)],
      let s := owning p.1 p.2.1
      (s.ownedShard 0 1 imgS).any fun h => h.r == 0 && (h.jnlAt s 0).phase == p.2.2.1 && (h.jnlAt s 0).bad == p.2.2.2.1
        && h.claimed s 0 == p.2.2.2.2) := by decide +kernel

/-- A report on a chunk whose digests match, on one whose working digest differs and on one whose both differ; a riser that need not resume, one that must, and one whose resumption has
nothing in doubt; a failed comparison in a riser that serves. -/
theorem witness_RiserEvents :
    (let s := owning [] Riser.reset
     s.hchk = true ∧ (s.ownedShard 0 1 imgS).any fun h => h.wdig s 0 == (h.jnlAt s 0).wdig) ∧
    (let s := owning [(0x8010, 1)] Riser.reset
     s.hchk = true ∧ (s.ownedShard 0 1 imgS).any fun h => h.wdig s 0 != (h.jnlAt s 0).wdig && h.sdig s 0 (h.jnlAt s 0).bank == (h.jnlAt s 0).sdig) ∧
    (let s := owning [(0x8010, 1), (0x8020, 1)] Riser.reset
     s.hchk = true ∧ (s.ownedShard 0 1 imgS).any fun h => h.wdig s 0 != (h.jnlAt s 0).wdig
       && h.sdig s 0 (h.jnlAt s 0).bank != (h.jnlAt s 0).sdig) ∧
    (((rg []).riser 7).recover = false ∧ ((rg []).riser 7).stopped = false) ∧
    (let s : State := { rg [] with risers := [(7, { Riser.reset with recover := true })] }
     (s.riser 7).recover = true ∧ s.logOk 7 = false ∧ (resumeChunk s 7).2 = true ∧
       calmB (s.updRiser 7 fun q => { q with opened := none, recover := false, stopped := false }) = true) ∧
    (rg []).riserServing 7 = true ∧ (rg [(sctlOff 7, 0x40)]).riserServing 7 = false ∧ calmB ((rg []).failRiser 7 2) = true ∧
    ((rg []).riser 7).queue = [] := by decide +kernel

/-! ## Memory -/

/-- Region 63 free, and requested with a valid base and limit; allocated; draining with nothing in flight; a latched request. -/
theorem witness_RegionCommands :
    (let l : List (Nat × W64) := [(rgnOff Reg.MEM_RGN_BASE 63, 0x100000), (rgnOff Reg.MEM_RGN_LIMIT 63, 0x200000)]
     bitOf ((rg l).reg (rgnOff Reg.MEM_RGN_CTL 63)) 63 = false ∧ (rg l).rgnCheck 63 = 0) ∧
    (rg []).rgnCheck 0 ≠ 0 ∧
    (let s := rg [(rgnOff Reg.MEM_RGN_CTL 63, 0x8000000000000000)]
     bitOf (s.reg (rgnOff Reg.MEM_RGN_CTL 63)) 63 = true) ∧
    (let s := rg [(rgnOff Reg.MEM_RGN_CTL 63, 0x4000000000000000)]
     bitOf (s.reg (rgnOff Reg.MEM_RGN_CTL 63)) 62 = true ∧ s.rgnInUse 63 = false ∧ bitOf (s.reg (rgnOff Reg.MEM_RGN_CTL 63)) 61 = false) ∧
    (let s := rg [(rgnOff Reg.MEM_RGN_CTL 63, 0x6000000000000000)]
     bitOf (s.reg (rgnOff Reg.MEM_RGN_CTL 63)) 62 = true ∧ bitOf (s.reg (rgnOff Reg.MEM_RGN_CTL 63)) 61 = true) ∧
    viewOf img = some vw ∧ vw.dev = (rg []).devAddr ∧ vw.region = 0 := by decide +kernel

/-- Regions 62 and 63, which meet in addresses and in each pseudo-channel. -/
theorem witness_RegionCommands_disjoint :
    let s := rg [(rgnOff Reg.MEM_RGN_BASE 62, 0x100000), (rgnOff Reg.MEM_RGN_LIMIT 62, 0x200000), (rgnOff Reg.MEM_RGN_CTL 62, 0x8000000000000000),
      (rgnOff Reg.MEM_RGN_BASE 63, 0x200000), (rgnOff Reg.MEM_RGN_LIMIT 63, 0x300000),
      (rgnOff Reg.MEM_RGN_PLACE 63, 4)]
    s.rgnCheck 63 = 0 ∧ s.rgnAlloc 62 = true ∧ s.rgnLimit 62 ≤ s.rgnBase 63 := by decide +kernel

/-- Splits of 17 and 16 steps; a crucible at work; a split that gives up 8 steps, and one that would give up a region's. -/
theorem witness_RegionCommands_split :
    16 < fld 17 4 0 ∧ fld 16 4 0 ≤ 16 ∧ sH.crucibleIdle 0 = false ∧
    (let s := rg [(Reg.MEM_FLASK_SPLIT + 8 * 3, 0x10000)]
     bitOf (s.reg (Reg.MEM_FLASK_SPLIT + 8 * 3)) 16 = true ∧ s.crucibleIdle 3 = true ∧ s.flaskUsed 3 0 = false) ∧
    let s := rg [(Reg.MEM_FLASK_SPLIT, 0x10800), (rgnOff Reg.MEM_RGN_BASE 0, BitVec.ofNat 64 (flaskStart 0)),
      (rgnOff Reg.MEM_RGN_LIMIT 0, BitVec.ofNat 64 (flaskStart 0 + stepBytes)), (rgnOff Reg.MEM_RGN_CTL 0, 0x8000000000000000)]
    bitOf (s.reg Reg.MEM_FLASK_SPLIT) 16 = true ∧ s.crucibleIdle 0 = true ∧ s.flaskUsed 0 0 = true ∧ 0 < s.scratchSteps 0 := by
  decide +kernel

/-- A READY module. -/
def up (l : List (Nat × W64)) : State := { rg l with pwr := { Power.reset with st := .ready } }

/-- Crucible 3 at its threshold; 3 °C below it, with a voltage below its set point and at it; hardware control; a sample below
every trip temperature, a sensor over it twice, and the power stage at 125 °C. -/
theorem witness_MemorySystemEvents_thermal :
    (let ft := (up []).field Reg.MEM_THERM_CFG 31 24
     let ht := (up []).field Reg.MEM_THERM_CFG 23 16
     ft ≤ tempAt (BitVec.ofNat 192 (100 * 2 ^ 72)) 9 ∧ tempAt 0 9 + 3 ≤ ft ∧ tempAt 0 16 + 3 ≤ ht ∧ tempAt 0 17 + 3 ≤ ht) ∧
    (up []).modeBit 9 = false ∧
    (up [(Reg.MEM_THERM_STATUS + 24, 0x2800000)]).field (Reg.MEM_THERM_STATUS + 24) 25 16 < (up []).field (Reg.MEM_VTARGET + 24) 9 0 ∧
    ¬(up []).field (Reg.MEM_THERM_STATUS + 24) 25 16 < (up []).field (Reg.MEM_VTARGET + 24) 9 0 ∧
    (up []).pwr.st = .ready ∧ ({ (up []).pwr with st := .bootwait } : Power).st = .bootwait ∧ hotSensors 0 = [] ∧ tempAt 0 18 < 125 ∧ 125 ≤ tempAt (BitVec.ofNat 192 (125 * 2 ^ 144)) 18 ∧
    (let x : BitVec 192 := BitVec.ofNat 192 (255 * 2 ^ 72)
     let s : State := { up [] with pwr := { (up []).pwr with hotLast := [9] } }
     ∃ i ∈ hotSensors x, i ∈ s.pwr.hotLast) := by decide +kernel

/-- The ring on and valid; off; a tail that reaches the head; tails outside the ring and past the head. -/
theorem witness_MemorySystemEvents_stream :
    (let s := rg ([(0x20000, 0), (0x20008, 0x100000), (0x20018, 0x8000000000000000)] ++
       [(Reg.RISER_SS_CFG, 1), (Reg.RISER_SS_BASE, 0x1000), (Reg.RISER_SS_LIMIT, 0x2000)])
     s.ringOn = true ∧ s.ringValid = true) ∧
    ((rg []).ringOn = false ∧ calmB { ((rg []).plainWrite Reg.RISER_SS_BASE 0x1000) with host := HostPort.reset } = true) ∧
    (let s : State := { rg [(Reg.RISER_SS_BASE, 0x1000), (Reg.RISER_SS_LIMIT, 0x2000)] with host := { HostPort.reset with ringUsed := 0xFC0 } }
     0 < s.ringSize ∧ (0xFC0 : W64).toNat < s.ringSize ∧
     ((0xFC0 : W64).toNat + s.ringSize - (s.reg Reg.RISER_SS_TAIL).toNat) % s.ringSize ≤ s.host.ringUsed ∧
     (let z := (s.judge Reg.RISER_SS_TAIL 0xFC0).setReg Reg.RISER_SS_TAIL (BitVec.ofNat 64 (fld 0xFC0 47 0))
      calmB { z with host := { z.host with ringUsed := 0 } } = true) ∧ s.ringSize ≤ (0x1000 : W64).toNat) ∧
    (rg []).ringSize = 0 ∧
    let s : State := rg [(Reg.RISER_SS_BASE, 0x1000), (Reg.RISER_SS_LIMIT, 0x2000)]
    s.host.ringUsed < ((0x40 : W64).toNat + s.ringSize - (s.reg Reg.RISER_SS_TAIL).toNat) % s.ringSize := by decide +kernel

/-! ## Ports, packets and time -/

/-- The state of port p. -/
def port (p v : Nat) (q : Port) : State :=
  { rg [(pstOff p, BitVec.ofNat 64 v)] with runner := { Runner.reset with ports := [(p, q)] } }

theorem witness_PortCommands :
    ((port 15 PortSt.draining Port.reset).portState 15 = PortSt.draining ∧ (Port.reset).waiting = [] ∧ (Port.reset).retry = []) ∧
    (port 7 PortSt.failed Port.reset).portExists 7 = true ∧ (port 7 PortSt.up Port.reset).portState 7 = PortSt.up ∧
    ((port 7 PortSt.training Port.reset).portState 7 = PortSt.training ∧
      ∃ a b, (port 7 PortSt.training Port.reset).peerOf (port 7 PortSt.training Port.reset).devAddr 7 = (a, b)) ∧
    (let s : State := rg [(pctlOff 7, 1), (pstOff 7, BitVec.ofNat 64 PortSt.failed)]
     s.modeBit 8 = false ∧ bitOf (s.reg (pctlOff 7)) 0 = true ∧ s.portExists 7 = true ∧ s.portState 7 = PortSt.failed) ∧
    (let s := port 7 PortSt.up { Port.reset with replays := 8, replaysMs := 1001 }
     s.portState 7 = PortSt.up ∧ 8 ≤ (s.port 7).replays ∧ 1000 < (s.port 7).replaysMs) := by
  refine ⟨by decide +kernel, by decide +kernel, by decide +kernel, ⟨by decide +kernel, _, _, rfl⟩, by decide +kernel, by decide +kernel⟩

/-- A packet for device 0 with its CRC, next in order. -/
def pkt : Packet := { src := 1, dest := 0, kind := .request, seq := 7, linkSeq := 0, vc := 0, body := [1, 2, 3], crc := crc32c [1, 2, 3] }
/-- One of this device's for device 0x1000, not acknowledged. -/
def far : SentPkt := ⟨{ pkt with src := 0, dest := 0x1000 }, 0, 0⟩
/-- It is known, and the counter stands at n, with every port up. -/
def farSent (n : W64) : State :=
  { rg ((List.range 16).map fun p => (pstOff p, 2)) with cnt := n, runner := { Runner.reset with unacked := [far] } }

/-- A good packet, a bad one, one out of order; an acknowledgement; one in transit whose next link is down; retries that the peer has and has not
received. -/
theorem witness_FabricPackets_link :
    (port 15 PortSt.draining Port.reset).portState 15 = PortSt.draining ∧
    (crc32c pkt.body = pkt.crc ∧ pkt.linkSeq = ((port 15 PortSt.up Port.reset).port 15).rxSeq) ∧ pkt.dest.toNat = (port 15 PortSt.up Port.reset).devAddr ∧
    (let k : Packet := { pkt with src := 0x1000, kind := .ack }
     let s := farSent 0
     let q := s.port 15
     k.dest.toNat = s.devAddr ∧ k.kind = .ack ∧
     let u := ((s.setPort 15 { q with rxSeq := q.rxSeq + 1, rxHeld := SMap.set 0 q.rxHeld 0 (pktFlits k), rxShared := q.rxShared + 0 }).send
       (.linkAck 15 k.linkSeq)).drainFlits (some (15, 0, pktFlits k, 0))
     min (pktFlits k) 128 = pktFlits k ∧
     calmB { u with runner := { u.runner with unacked := u.runner.unacked.filter fun x => ¬(x.pkt.dest = k.src ∧ x.pkt.seq = k.seq) } } = true) ∧
    (let s := port 15 PortSt.up Port.reset
     far.pkt.dest.toNat ≠ s.devAddr ∧ s.portState (s.nextPort far.pkt) ≠ PortSt.up) ∧
    crc32c ({ pkt with crc := 0 } : Packet).body ≠ ({ pkt with crc := 0 } : Packet).crc ∧
    ({ pkt with linkSeq := 4095 } : Packet).linkSeq ≠ Port.reset.rxSeq ∧
    retryFrom 1 [pkt] = [] ∧ retryFrom 0 [pkt] ≠ [] ∧ (7 < 8 ∧ 999 < 1000) := by decide +kernel

/-- A packet that is due again at 20 µs and not before; one with no route; none of the number; a link-state number seen and one not. -/
theorem witness_FabricPackets_messages :
    ((farSent 20000).runner.unacked.find? (fun x => x.pkt.dest == 0x1000 && x.pkt.seq == 7) = some far ∧
      far.stamp.toNat + 20000 ≤ (farSent 20000).cnt.toNat ∧ (farSent 20000).chooseRoute far.pkt = some (0 :: []) ∧
      (farSent 19999).cnt.toNat < far.stamp.toNat + 20000 ∧ ({ farSent 20000 with regs := [] } : State).chooseRoute far.pkt = none ∧
      ∀ x ∈ (farSent 20000).runner.unacked, ¬(x.pkt.dest = 0x1000 ∧ x.pkt.seq = 8)) ∧
    (let s : State := { rg [] with runner := { Runner.reset with lsSeen := [(0x1000, 5)] } }
     (∀ o, s.runner.lsSeen.find? (fun e => e.1 == 0x1000) = some (0x1000, o) → (5 : W64).toNat ≤ o.toNat) ∧
     ∀ o, s.runner.lsSeen.find? (fun e => e.1 == 0x1000) = some (0x1000, o) → o.toNat < (6 : W64).toNat) ∧
    (let u : State := { rg [] with runner := { Runner.reset with down := [0x1000] } }
     (0x1000 : W16).toNat ∈ u.runner.down ∧ (0x1000 : W16).toNat ∉ (rg []).runner.down ∧ (rg []).runner.colls = [] ∧ (rg []).runner.steps = [] ∧
       calmB (u.raiseFault { mech := 9, unit := 0x300, cls := .degraded, action := 0, detail := 0x1000 }) = true) := by
  refine ⟨by decide +kernel, ⟨?_, ?_⟩, by decide +kernel⟩ <;> intro o h <;> simp at h <;> subst h <;> decide

/-- A follower with a parent at depth 30; a master with none lower; one that hears a lower one; 20 ms without one. -/
theorem witness_SystemTime :
    (let s := rg [(pstOff 15, 2)]
     s.portState 15 = PortSt.up ∧ (∀ a ∈ s.runner.adv, a.1 = 15) ∧ s.field Reg.RUN_TIME_CFG 1 0 = 0 ∧ (30 : BitVec 5).toNat < 31 ∧
       (0x1000 : W16).toNat ≠ s.devAddr ∧ s.masterRole = false ∧ s.runner.noMaster = false) ∧
    (let s := rg [(pstOff 15, 2), (Reg.RUN_TIME_CFG, 1), (Reg.RUN_TIME_STATUS, 0)]
     s.portState 15 = PortSt.up ∧ s.field Reg.RUN_TIME_CFG 1 0 = 1 ∧ s.devAddr ≤ (0 : W16).toNat ∧ bitOf (s.reg Reg.RUN_TIME_STATUS) 0 = false ∧
       s.masterRole = true) ∧
    (let s := rg [(pstOff 15, 2), (Reg.RUN_TIME_CFG, 2), (Reg.RUN_TOPO, 0x1000)]
     s.portState 15 = PortSt.up ∧ (∀ a ∈ s.runner.adv, a.1 = 15) ∧ s.field Reg.RUN_TIME_CFG 1 0 = 2 ∧ (0 : W16).toNat < s.devAddr) ∧
    (let s : State := { rg [] with cnt := 20000000 }
     s.runner.masterSeen.toNat + 20000000 ≤ s.cnt.toNat) ∧ (rg []).pwr.standby = true := by decide +kernel

/-- A role and domain that PTP may discipline, and not; a `Sync` that a `Follow_Up` answers and one that it does not; a delay request that a response
answers, with the counter behind before the first heat, ahead, and after a heat. -/
theorem witness_SystemTime_ptp :
    (let s : State := { rg [(Reg.RUN_TIME_CFG, 2), (Reg.HOST_PTP_CFG, 0xFF)] with
       host := { HostPort.reset with ptp := { HostPort.reset.ptp with sync := some (3, 40), req := some (5, 100, 90, 200) } } }
     s.field Reg.RUN_TIME_CFG 1 0 = 2 ∧ s.field Reg.HOST_PTP_CFG 7 0 = (0xFF : Byte).toNat ∧ s.host.ptp.sync = some (3, 40) ∧
       (∀ u, s.host.ptp.sync ≠ some (4, u)) ∧ s.host.ptp.req = some (5, 100, 90, 200) ∧
       ((90 - 100 : W64).toInt - (300 - 200 : W64).toInt) / 2 < 0 ∧ s.heats.lastSince = none ∧
       0 ≤ ((90 - 100 : W64).toInt - (190 - 200 : W64).toInt) / 2 ∧
       (∀ n u1 u2 u3, s.host.ptp.req = some (n, u1, u2, u3) → n % 2 ^ 16 ≠ (6 : W16).toNat) ∧
       ({ s with heats := { s.heats with lastSince := some 1 } } : State).heats.lastSince ≠ none) ∧
    (rg []).field Reg.RUN_TIME_CFG 1 0 ≠ 2 := by
  refine ⟨⟨by decide +kernel, by decide +kernel, by decide +kernel, ?_, by decide +kernel, by decide +kernel, by decide +kernel, by decide +kernel, ?_,
    by decide +kernel⟩, by decide +kernel⟩
  · intro u h; injection h with h; injection h with h; exact absurd h (by decide)
  · intro n u1 u2 u3 h; injection h with h; injection h with h; subst h; decide

/-! ## Collectives and routing -/

/-- Group 0 is devices 0 and 0x1000. -/
def two (c : List Coll) (r : List RouteStep) : State :=
  { rg [(grpOff 0 0, 0xC00000000001), (Reg.RUN_CTO, 1)] with runner := { Runner.reset with colls := c, steps := r }, cnt := 1000 }
def coll0 : Coll :=
  { grp := 0, cseq := 5, kind := .ared, hold := false, xsrc := false, wrs := false, rm := 0, heat := 0, since := 0, phase := .headers, local_ := [],
    dd := none, header := none, heads := [], codes := [], align := [], windows := [], results := [], answered := [], slots := 12 }
def chead : CollHeader := ⟨0, 2, 1, 0, [], false, 0⟩
def chdr (r : Nat) : Instr := .collectiveHeader 0 5 r chead

/-- A header before the issue, after the end, from a member, from one that has sent it, from this device's rank and from no member; a collective
that waits for slots and gets them, one with exports that also waits for the writer, and one that has waited its limit. -/
theorem witness_CollectiveMessages :
    collKeyOf (chdr 1) = some (0, 5, 1) ∧ ((two [] []).findColl 0 5 = none ∧ (∀ f ∈ (two [] []).runner.finished, ¬(f.1 = 0 ∧ f.2.1 = 5)) ∧
      calmB { two [] [] with runner := { (two [] []).runner with early := [chdr 1] } } = true) ∧
    (let s : State := { two [] [] with runner := { Runner.reset with finished := [(0, 5, 0, 0)] } }
     s.findColl 0 5 = none ∧ (∃ f ∈ s.runner.finished, f.1 = 0 ∧ f.2.1 = 5) ∧ calmB (s.count Reg.RUN_CNT_VIOL 1) = true) ∧
    (let s := two [coll0] []
     s.findColl 0 5 = some coll0 ∧ coll0.m s = 2 ∧ coll0.rank s = 0 ∧
       (coll0.take (chdr 1)).any (fun d => calmB ((s.putColl d).advanceColl 0 5) && (d.take (chdr 1)).isNone)) ∧
    (let c : Coll := { coll0 with phase := .slots }
     let s := two [c] []
     c.xsrc = false ∧ c.slots ≤ s.bufFree ∧ s.openColls < 64 ∧ calmB ((s.putColl { c with phase := .headers }).advanceColl 0 5) = true ∧
       (let d : Coll := { c with xsrc := true }
        (two [d] []).findColl 0 5 = some d ∧ d.kind.reduces = true ∧ d.dd = none ∧ calmB (two [d] []) = true) ∧
       s.findStep 5 = none ∧ s.ctoPassed c.since = true ∧ calmB (c.void s true) = true ∧
       ({ s with cnt := 999 } : State).ctoPassed c.since = false) := by decide +kernel

/-- An export whose collective is not open, waits for the writer's shape, and is taken. -/
theorem witness_CollectiveMessages_exports :
    let x : ExportMsg := ⟨255, 0, 5, [], false⟩
    let s (l : List Coll) : State := { two l [] with runner := { (two l []).runner with exports := [x] } }
    (s []).runner.exports.find? (fun y => y.g == 255) = some x ∧ (s []).findColl 0 5 = none ∧ calmB ((two [] []).count Reg.RUN_CNT_VIOL 1) = true ∧
    (s [coll0]).findColl 0 5 = some coll0 ∧ coll0.dd = none ∧ calmB (s [coll0]) = true ∧
    let c : Coll := { coll0 with dd := some voidImage, local_ := [⟨255, voidImage, 1, 0, [], 0⟩] }
    (s [c]).findColl 0 5 = some c ∧ x.need ≤ (s [c]).bufFree ∧ (c.takeExport (two [c] []) x).2 = true ∧
      calmB (((two [c] []).putColl (c.takeExport (two [c] []) x).1).advanceColl 0 5) = true := by decide +kernel

def step0 : RouteStep :=
  { rseq := 9, grp := 0, etab := 0, cap := 4, g := 0, x := voidImage, base := 0, since := 0, heat := 0, unit := 1, phase := .counts, choices := [],
    counts := [], arrivals := [], drops := 0 }
def tag : RowTag := ⟨0, 0x1000, 0⟩

/-- Counts with and without their step, once and twice; a row for the last accepted slot and for the first that is not; a returned row for a choice
sent out and for none. -/
theorem witness_RoutingMessages :
    ((two [] []).findStep 9 = none ∧ calmB (two [] []) = true) ∧
    (let s := two [] [step0]
     s.findStep 9 = some step0 ∧ (∀ c ∈ step0.counts, c.1 ≠ 0x1000) ∧
       calmB ((s.putStep { step0 with counts := [(0x1000, 0, [3])] }).advanceStep 9) = true ∧ calmB (s.count Reg.RUN_CNT_VIOL 1) = true) ∧
    (let r : RouteStep := { step0 with phase := .rows, counts := [(0x1000, 0, [4])] }
     let s := two [] [r]
     s.findStep 9 = some r ∧ s.expertDev 0 0 = s.devAddr ∧ 3 < r.accepted 0 ∧ r.accepted 0 ≤ 4 ∧ (0, 3) ∉ r.arrivals ∧
       calmB (((r.land s 0 3 tag [] []).putStep { r with arrivals := [(0, 3)] }).advanceStep 9) = true) ∧
    let r : RouteStep := { step0 with choices := [⟨2, 7, 0, 0, .sent⟩] }
    let s := two [] [r]
    r.choices.find? (fun c => c.token == 2 && c.rank == 7) = some ⟨2, 7, 0, 0, .sent⟩ ∧
      calmB (s.putStep { r with choices := [⟨2, 7, 0, 0, .returned []⟩] }) = true ∧
      r.choices.find? (fun c => c.token == 3 && c.rank == 7) = none := by decide +kernel

/-! ## The host -/

def sess (o : Bool) : Session := ⟨1, o, [], [], [], [], [], 0, []⟩
/-- READY, the link up, session 1 open and the holder until count 10^6; the counter stands at 1000. -/
def held (l : List (Nat × W64)) : State :=
  { up ([(Reg.HOST_STATUS, 3), (Reg.HOST_LEASE, 0x100000000), (Reg.HOST_LEASE_EXP, 1000000)] ++ l) with
    cnt := 1000, host := { HostPort.reset with sessions := [sess true], nextSid := 2 } }
def ch (at_ : W64) : CmdHdr := ⟨1, 0, at_, false, none⟩
def touched (s : State) : State := (s.touch 1).count Reg.HOST_CNT_VIOL 0

theorem holder (l : List (Nat × W64)) (h : (held l).pwr.st = .ready ∧ (held l).openSession 1 = true ∧ (held l).holds 1 = true) :
    holderNow (ch 0) (held l) (touched (held l)) := ⟨h.1, rfl, h.2.1, rfl, h.2.2, rfl⟩

/-- A packet of class 1 that closes the command `RDREG` of `HOST_STATUS`. -/
def gpkt (sid : W32) : GoengoPkt := ⟨1, 1, false, false, true, 0, sid, 0, 0, 0, 0, [], []⟩
def rdregBytes : List Byte := [1, 0, 0, 0, 0, 0, 0, 0, 0, 0, 0, 0, 0, 0, 0, 0, 8, 0, 1, 0, 0, 0, 0, 0]

/-- The largest frame and one longer; a packet of no session and one of session 1, next in order (whether its tag verifies is the cipher's,
which nothing fixes: `openPacket` is none or some, and a clause speaks of each); commands of the five classes. -/
theorem witness_HostSessions_packets :
    frameTaken ⟨9216, 1, .arp, 0, []⟩ (held []) ∧ ¬frameTaken ⟨9217, 1, .arp, 0, []⟩ (held []) ∧ (held []).listening = true ∧
    (let f : Frame := ⟨64, 0, .goengo, BitVec.ofNat 16 ((held []).field Reg.HOST_UDP 15 0), List.replicate 48 0⟩
     frameTaken f (held []) ∧ f.port.toNat = (held []).field Reg.HOST_UDP 15 0 ∧ (parseGoengo f.payload).isSome = true) ∧
    (held []).host.sessions.find? (fun x => x.opened && x.sid == (gpkt 2).sid) = none ∧
    (held []).host.sessions.find? (fun x => x.opened && x.sid == (gpkt 1).sid) = some (sess true) ∧
    (1 ≤ (gpkt 1).cls.toNat ∧ (gpkt 1).cls.toNat ≤ 5 ∧ (gpkt 1).payload.length ≤ 8192 ∧ (gpkt 1).psn = ((sess true).chan 1).rxNext ∧
      ((sess true).chan 1).rxHave = [] ∧ (∀ y ∈ (held []).host.sessions, y.sid = (gpkt 1).sid → y = sess true) ∧
      parseCommand 1 0 rdregBytes = some (.rdreg (ch 0) 0x10008)) ∧
    cmdHdr (.rdreg (ch 0) 0x10008) = some (ch 0) := by
  unfold frameTaken
  decide +kernel

/-- A handshake that may begin, and one when eight sessions are open; a `FINISH` of a session that is not open (whether its signatures verify
is the cipher's: both cases are stated); a session idle for ten seconds, with and without the lease, and one not yet; the link up and down. -/
theorem witness_HostSessions :
    ((held []).hostReady = true ∧ (held []).host.openCount < 8) ∧
    (let s : State := { held [] with host := { HostPort.reset with sessions := List.replicate 8 (sess true) } }
     8 ≤ s.host.openCount) ∧
    (let s : State := { held [] with host := { HostPort.reset with sessions := [sess false] } }
     s.host.sessions.find? (fun x => x.sid == 1 && !x.opened) = some (sess false) ∧ s.host.openCount < 8 ∧ s.session 1 = some (sess false)) ∧
    ((held []).session 1 = some (sess true) ∧ (sess true).last.toNat + 10000000000 ≤ ({ held [] with cnt := 10000000000 } : State).cnt.toNat ∧
      (held []).host.session 1 = some (sess true) ∧ (held []).host.session 2 = none ∧ (held []).leaseSid = (1 : W32).toNat ∧ (held []).cnt.toNat < (sess true).last.toNat + 10000000000) ∧
    bitOf ((held []).reg Reg.HOST_STATUS) 0 = true ∧ bitOf ((up []).reg Reg.HOST_STATUS) 0 = false := by decide +kernel

/-- `AT` at the counter and one count ahead; a command of no session; one that is due. -/
theorem witness_HostRegisterCommands_arrival :
    cmdHdr (.rdreg (ch 1000) 0) = some (ch 1000) ∧ (held []).pwr.st = .ready ∧ (held []).openSession 1 = true ∧ (up []).openSession 1 = false ∧
    orderTarget (.rdreg (ch 1000) 0) = none ∧ ((ch 1000).at_ ≠ 0 ∧ (ch 1000).at_.toNat ≤ (held []).cnt.toNat) ∧
    (held []).cnt.toNat < (ch 1001).at_.toNat ∧
    (let s : State := { held [] with host := { (held []).host with deferred := [(1000, .rdreg (ch 1000) 0)] } }
     s.host.deferred = [(1000, .rdreg (ch 1000) 0)] ∧ (1000 : W64).toNat ≤ s.cnt.toNat) := by decide +kernel

/-- A device whose stacks all stand behind their wrappers. -/
def fenced : State :=
  held ([(0x20000, 0), (0x20008, 0x100000), (0x20018, 0x8000000000000000)] ++ (List.range 8).map fun k => (sctlOff k, 0x40))

/-- A holder; a write with no order and with one that outranks it; the last byte of a region, and one of a fenced stack; leases at both limits of their range; a
lease at its end. -/
theorem witness_HostRegisterCommands :
    holderNow (ch 0) (held []) (touched (held [])) ∧
    (∀ x ∈ (held []).host.sessions, x.sid = 1 → (x.chan 1).txNext.toNat + 1 < 2 ^ 48 ∧ ∀ k ∈ x.chans, k.txNext.toNat + 1 < 2 ^ 48) ∧
    ((held []).host.orders = [] ∧ logOpen (touched (held []))) ∧
    (let o : Order := ⟨0x50100, 1, 2, 1⟩
     o.window = (held []).cnt.toNat / 1000 ∧ (ch 0).psn.ult o.psn = true) ∧
    (let s := held [(0x20000, 0), (0x20008, 0x100000), (0x20018, 0x8000000000000000)]
     s.inRegion 0xFFFFF 1 (fun _ => true) = true ∧ s.inRegion 0xFFFFF 2 (fun _ => true) = false ∧ s.rangeErrs 0xFFFFF 1 = false) ∧
    fenced.inRegion 0 64 (fun _ => true) = true ∧ fenced.rangeErrs 0 64 = true ∧ fenced.addrErrs 0 = true ∧
    (let s : State := { up [] with host := { HostPort.reset with sessions := [sess true] } }
     s.pwr.st = .ready ∧ s.openSession 1 = true ∧ s.leaseSid = 0 ∧ (1000 ≤ 1000 ∧ 60000000 ≤ 60000000)) ∧
    (let s : State := { held [] with cnt := 1000000 }
     s.leaseSid ≠ 0 ∧ s.leaseEnd ≤ s.cnt.toNat) :=
  ⟨holder [] (by decide +kernel), by decide +kernel, ⟨by decide +kernel, by unfold logOpen; decide +kernel⟩, by decide +kernel, by decide +kernel,
   by decide +kernel, by decide +kernel, by decide +kernel, by decide +kernel, by decide +kernel⟩

/-- An unused offset; a register with nothing to write; the last register of each plain area; `HOST_UDP`. -/
theorem witness_HostRegisterCommands_rule :
    devRow 4 = none ∧ (∃ r, devRow Reg.HOST_CNT_VIOL = some r ∧ r.rw ||| r.w1c ||| r.wo = 0) ∧
    (0x601F8 % 8 = 0 ∧ 0x60100 ≤ 0x601F8 ∧ 0x601F8 < 0x60200) ∧ (0x70000 ≤ 0x8FFF8 ∧ 0x8FFF8 < 0x90000) ∧
    (0x50100 ≤ 0x50178 ∧ 0x50178 < 0x50180) ∧ (BitVec.ofNat 32 Reg.HOST_UDP).toNat = Reg.HOST_UDP := by
  refine ⟨by decide, ⟨(devRow Reg.HOST_CNT_VIOL).get (by decide), by simp, by decide⟩, by decide⟩

/-- A seed with a heat running and with none; launches that are late, out of order, without a seed, and in time. -/
theorem witness_HostControlCommands_launch :
    (holderNow (ch 0) (held [(Reg.HOST_STATUS, 0xB)]) (touched (held [(Reg.HOST_STATUS, 0xB)])) ∧ (held [(Reg.HOST_STATUS, 0xB)]).heatRuns = true) ∧
    ((held []).heatRuns = false ∧ (held []).heats.pendingLaunch = none) ∧
    ((held []).holds 1 = true ∧ (ch 6001).rsv = false ∧ (ch 6001).at_.toNat < (held []).leaseEnd ∧
      (held []).launchStatus ⟨0, 6001, 1, 0, 2, 0⟩ = 0 ∧ (held []).launchStatus ⟨0, 6000, 1, 0, 2, 0⟩ = Reply.late ∧
      (Reply.late ≠ 0 ∧ Reply.late ≠ 2) ∧ bitOf ((held []).reg Reg.HOST_STATUS) 1 = true) ∧
    (let s : State := { held [] with heats := { (held []).heats with base := 1 } }
     0 < s.heats.base) ∧
    bitOf ((held [(Reg.HOST_STATUS, 1)]).reg Reg.HOST_STATUS) 1 = false :=
  ⟨⟨holder _ (by decide +kernel), by decide +kernel⟩, by decide +kernel, by decide +kernel, by decide +kernel, by decide +kernel⟩

/-- Tails at what is used and past it; a log position at its ends and past them; the last mode bit; a staged boot; data within a line. -/
theorem witness_HostControlCommands :
    (let s : State := { held [(Reg.HOST_HREC_BASE, 0x1000), (Reg.HOST_HREC_LIMIT, 0x2000)] with
       heats := { (held []).heats with recUsed := 0x40 } }
     s.host.orders = [] ∧ (0x40 : W64).toNat < s.hrecSize ∧ ((0x40 : W64).toNat + s.hrecSize - (s.reg Reg.HOST_HREC_TAIL).toNat) % s.hrecSize ≤ s.heats.recUsed ∧
       bitOf (s.reg Reg.HOST_STATUS) 5 = false ∧ s.hrecSize ≤ (0x1000 : W64).toNat) ∧
    (let s := held [(Reg.HOST_ILOG_SEQ, 7), (Reg.HOST_ILOG_TAIL, 7)]
     (s.reg Reg.HOST_ILOG_TAIL).ule 7 = true ∧ (7 : W64).ule (s.reg Reg.HOST_ILOG_SEQ) = true ∧ s.host.waitingIn = [] ∧
       (6 : W64).ult (s.reg Reg.HOST_ILOG_TAIL) = true ∧ (s.reg Reg.HOST_ILOG_SEQ).ult 8 = true) ∧
    (held []).host.streamOut = [] ∧ ((12 : Byte).toNat ≤ 12 ∧ 12 < (13 : Byte).toNat) ∧
    (let s : State := { held [] with pwr := { Power.reset with st := .bootwait } }
     s.pwr.st = .bootwait ∧ s.openSession 1 = true) ∧
    ((0x79FFFFF : W32).toNat + ([1] : List Byte).length ≤ 0x7A00000) ∧
    (let s := held [(0x20000, 0), (0x20008, 0x100000), (0x20018, 0x8000000000000000)]
     s.inRegion (64 * 0x3FFF) 64 (fun w => match w with | .hbm => true | .flask _ => true | _ => false) = true ∧
       64 * 0x3FFF ≤ 0xFFFFF ∧ 0xFFFFF + 1 ≤ 64 * 0x3FFF + 64) ∧
    (held []).mayRise = false := by decide +kernel

/-! ## Heats -/

/-- Nothing pending; a launch that is due, with no mould that runs, with one, and after a fatal fault; one in the future; a mould that waits for the
launch to enter service. -/
theorem witness_HeatLifecycle_launch :
    (up []).heats.pendingLaunch = none ∧
    (let x : Launch := ⟨3, 1000, 0, 0, 2, 0⟩
     let s : State := { held [] with heats := { (held []).heats with pendingLaunch := some x } }
     s.heats.pendingLaunch = some x ∧ x.l.toNat ≤ s.cnt.toNat ∧ s.heatRuns = false ∧ s.heats.fatal = false ∧
       (∀ g ∈ s.working, (s.mould g).reg Reg.MID_HEAT_STATE ≠ 1) ∧ ({ s with cnt := 999 } : State).cnt.toNat < x.l.toNat) ∧
    (let s : State := { held [] with heats := { (held []).heats with pendingLaunch := some ⟨3, 1000, 0, 0, 2, 0⟩ }, moulds := [(7, heatMould)] }
     (7 ∈ s.working ∧ (s.mould 7).reg Reg.MID_HEAT_STATE = 1) ∧ ∀ k ∈ s.working, (s.mould k).reg Reg.MID_HEAT_STATE = 1 → 7 ≤ k) ∧
    ({ (held []).heats with fatal := true } : Heats).fatal = true ∧
    ((held [(mctlOff 255, 0x31)]).mstate 255 = Svc.pendingEnable ∧ ((held [(mctlOff 255, 0x31)]).mould 255).running = false) ∧
    let s := withMould (up []) { freeMould with wait := .hwait 31, launched := some 3 }
    (s.mould 0).stopped = false ∧ (s.mould 0).running = true ∧ (s.mould 0).wait = .hwait 31 ∧ (s.mould 0).launched = some 3 ∧ (31 : BitVec 5) ≠ 0 ∧
      bitOf (s.reg Reg.MEM_FLASK_SPLIT) 16 = false := by
  decide +kernel

theorem no_wait (g : Nat) : ((held []).mould g).wait = .none := by
  have : (held []).moulds = [] := by decide +kernel
  simp [State.mould, SMap.get, this]; rfl

/-- A heat in which every index has ended, in a device whose moulds are all fused off, with a record ring up to an address. -/
def ending (limit : W64) : State :=
  { held [] with regs := [(Reg.HOST_STATUS, 0xB), (Reg.HOST_LEASE, 0x100000000), (Reg.HOST_LEASE_EXP, 1000000), (Reg.HOST_HREC_LIMIT, limit),
      (0x20008, 0x100000), (0x20018, 0x8000000000000000)] ++ (List.range 256).map fun g => (mctlOff g, 0x50) }

theorem padTo_length (n : Nat) (l : List Byte) : (padTo n l).length = n := by
  simp [padTo]; omega

theorem signRecord_length (b c : List Byte) : (signRecord b c).length = roundup64 (b.length + 3373) := by
  simp only [signRecord, padTo_length, List.length_append]

/-- A heat that has not ended; a ring that is not valid; and one that the record fills. -/
theorem witness_HeatLifecycle_complete :
    (held []).heatReady = false ∧ (held []).hrecValid = false ∧
    (ending 0x10C0).heatReady = true ∧ (ending 0x10C0).hrecValid = true ∧ (ending 0x10C0).heats.owed = [] ∧
    ((ending 0x10C0).reg Reg.HOST_HREC_HEAD).toNat < (ending 0x10C0).hrecSize ∧
    (ending 0x10C0).heats.recUsed + (heatRecord (ending 0x10C0)).2.length ≤ (ending 0x10C0).hrecSize := by
  refine ⟨by decide +kernel, by decide +kernel, by decide +kernel, by decide +kernel, by decide +kernel, by decide +kernel, ?_⟩
  simp only [heatRecord]
  rw [signRecord_length]
  decide +kernel

theorem recorded_quiet {s : State} (h : s.quiet = true) : (recorded s).quiet = true := by
  unfold recorded
  refine State.quiet_eventOf _ _ _ _ ?_
  generalize heatRecord s = r
  have q : ∀ u : State, u.quiet = true → (u.hrecStore r.2).quiet = true :=
    fun u hu => State.quiet_store _ _ _ (State.quiet_store _ _ _ hu)
  rw [State.quiet_congr (s := (if s.heats.taken = [] then s.freshWord.2 else s).hrecStore r.2) (by simp) (by simp)]
  refine q _ ?_
  split
  · exact h
  · exact h

theorem witness_HeatLifecycle_still : Still (recorded (ending 0x10C0)).flushEnds :=
  State.quiet_still (State.quiet_flushEnds (recorded_quiet (by decide +kernel)))

def endedMould : Mould := { freeMould with regs := [(Reg.MID_HEAT_STATE, 2)] }

/-- A heat that is overdue, to the count; a mould that cannot take up work, one that can and stays itself, and one that goes on to its guest; a
valid and an invalid `SVC_REMAP`. -/
theorem witness_HeatLifecycle :
    (let s : State := { held [(Reg.HOST_STATUS, 0xB), (Reg.HOST_CFG, 0x10000)] with cnt := 1000000 }
     s.heatRuns = true ∧ s.heats.overdue = false ∧ s.heats.l.toNat + s.field Reg.HOST_CFG 31 16 * 1000000 ≤ s.cnt.toNat ∧
       ¬(s.heats.l.toNat + s.field Reg.HOST_CFG 31 16 * 1000000 ≤ 999999)) ∧
    ((held [(mctlOff 255, 0x40)]).serving 255 = false ∧ (held []).serving 0 = true ∧ (held []).suspended 0 = false ∧
      (let s := withMould (held []) endedMould
       s.suspended 0 = true ∧ (s.eligible 0) = [] ∧ nextTurn (s.occupant 0) (sortBy (fun a b => decide (a < b)) (0 :: s.carried 0)) = s.occupant 0)) ∧
    (let s : State := { held [(mctlOff 1, 0x40)] with moulds := [(0, endedMould), (1, { freeMould with stopped := true })], heats := { (held []).heats with guests := [(1, some 0)] } }
     let v := (s.eligible 0).foldl (fun u k => u.adopt 0 k) s
     s.serving 0 = true ∧ s.suspended 0 = true ∧ nextTurn (s.occupant 0) (sortBy (fun a b => decide (a < b)) (0 :: v.carried 0)) = 1 ∧
       s.occupant 0 = 0 ∧
       calmB (((v.updMould 0 fun m => { m with stopped := true }).updMould 1 fun m => { m with stopped := false }).wake 1) = true) ∧
    (let s : State := { held [(mctlOff 1, 0x40)] with heats := { (held []).heats with guests := [(1, none)] } }
     let v : W64 := 0x10001
     bitOf v 16 = true ∧ fld v 7 0 / 64 = fld v 15 8 / 64 ∧ s.serving (fld v 15 8) = true ∧ (∃ e ∈ s.heats.guests, e.1 = fld v 7 0) ∧
       ¬∃ e ∈ s.heats.guests, e.1 = fld 0x10002 7 0) := by decide +kernel

/-! ## Faults, service and flash -/

theorem witness_BlockFaults :
    ((up [(mctlOff 255, 0x40)]).serving 255 = false ∧ (up []).serving 255 = true ∧ (up []).crucibleAlive 255 = true ∧
      (up []).mstate 255 ≠ Svc.fused) ∧
    ((held [(Reg.HOST_STATUS, 0xB)]).heatRuns = true ∧ (held []).heatRuns = false) ∧
    ((3 : BitVec 2).toNat ∉ (up []).seqMismatch ∧ (3 : BitVec 2).toNat ∈ ({ up [] with seqMismatch := [3] } : State).seqMismatch) ∧
    ((up []).pwr.st ≠ .held ∧ (up []).pwr.st ≠ .charging ∧ (rg []).pwr.st = .charging ∧ (up []).pwr.mpRestart = none ∧
      (let s : State := { up [] with cnt := 999999999, pwr := { (up []).pwr with mpRestart := some 0 } }
       ∃ u ∈ s.pwr.mpRestart, s.cnt.toNat < u.toNat + 1000000000)) ∧
    ((up []).riserServing 7 = true ∧ calmB ((up []).failRiser 7 7) = true ∧ (up []).stackServing 7 = true ∧
      (up [(pstOff 15, 2)]).portState 15 = PortSt.up ∧ bitOf ((held []).reg Reg.HOST_STATUS) 0 = true) := by
  refine ⟨by decide +kernel, by decide +kernel, by decide +kernel, ⟨by decide +kernel, by decide +kernel, by decide +kernel, by decide +kernel, 0, ?_, ?_⟩,
    by decide +kernel⟩
  · exact Option.mem_some_self _
  · decide +kernel

/-- Every state of the enable field; loads of 1 and 1,024 units, and of 0 and 1,025; a stack that a region uses, one that none uses; a block
that may be activated and one that may not. -/
theorem witness_LiveService :
    (∀ k, k < 7 → (up [(mctlOff 255, BitVec.ofNat 64 (16 * k + 1))]).mstate 255 = k) ∧ ((up []).mould 255).idle = true ∧
    (freeMould.idle = true ∧ freeMould.running = true) ∧
    (fld 0x1000000000000 58 48 = 1 ∧ fld 0x400000000000000 58 48 = 1024 ∧ fld 0x401000000000000 58 48 = 1025) ∧
    (up [(mctlOff 255, 0x20)]).hostOf 255 = none ∧
    (∀ k, k < 7 → (up [(sctlOff 7, BitVec.ofNat 64 (16 * k + 1))]).sstate 7 = k) ∧ (up []).stackUsed 7 = false ∧
    (up [(0x20000, 0), (0x20008, 0x100000), (0x20018, 0x8000000000000000)]).stackUsed 7 = true ∧
    ((up []).riser 7).recover = false ∧
    (let s : State := { up [] with pwr := { (up []).pwr with bankB := Power.reset.bankA } }
     s.idleIngot.edOk = true ∧ s.idleIngot.mlOk = true ∧ s.field Reg.PWR_FLASH_CTL 60 56 = 0 ∧ s.pwr.ingotBusy = none ∧
       bitOf (s.reg Reg.SVC_INGOT) 16 = false) ∧
    ((9 : BitVec 4).toNat ≤ 9 ∧ 9 < (10 : BitVec 4).toNat) ∧ (up []).idleIngot.edOk = false ∧
    bitOf ((up [(Reg.SVC_INGOT, 0x10000)]).reg Reg.SVC_INGOT) 16 = true := by decide +kernel

theorem witness_FlashAndFuses :
    ((up []).pwr.optBusy = false ∧ fld 0x10100 19 16 ≠ 0 ∧ fld 0x10100 15 8 ≠ 0 ∧ fld 0x10000 15 8 = 0 ∧ fld 0x100 19 16 = 0) ∧
    ((up []).pwr.ingotBusy = none ∧ 0 < fld 31232 31 0 ∧ fld 31232 31 0 ≤ 31232 ∧ 31232 < fld 31233 31 0) ∧
    (up []).pwr.ingotPending = none ∧ ({ (up []).pwr with ingotPending := some Ingot.blank } : Power).ingotPending = some Ingot.blank ∧
    (up []).ingotCheck (up []).pwr.bankA = 0 ∧
    ((up []).pwr.keys.length = 4 ∧ ((up []).pwr.key 0).sealed = true ∧ ((up []).pwr.key 3).sealed = false ∧ (3 : BitVec 2).toNat ≠ 0 ∧
      (up []).pwr.otherKey = false) ∧
    bitOf 0x30 4 = bitOf 0x30 5 ∧
    (let s : State := { up [] with pwr := { (up []).pwr with bankA := { Power.reset.bankA with svn := 127 } } }
     s.pwr.fsvn < fld 127 6 0 ∧ fld 127 6 0 ≤ (s.bank s.activeIsB).svn ∧ fld 0 6 0 ≤ s.pwr.fsvn) := by decide +kernel

/-! ## Power -/

/-- Quench armed and not; in each of the two states that it leaves alone. -/
theorem witness_PowerInput :
    ((up [(Reg.PWR_STATUS, 4)]).pwr.st ≠ .held ∧ (up [(Reg.PWR_STATUS, 4)]).pwr.st ≠ .charging ∧
      bitOf ((up [(Reg.PWR_STATUS, 4)]).reg Reg.PWR_STATUS) 2 = true ∧ bitOf ((up [(Reg.PWR_STATUS, 0)]).reg Reg.PWR_STATUS) 2 = false) ∧
    (rg []).pwr.st = .charging ∧ ((4625 : W16).toNat ≤ 4625 ∧ 4625 < (4626 : W16).toNat) := by decide +kernel

def h (p : Power) : State := ({ rg [] with pwr := { p with st := .held, refclk := true } } : State).setVnode 5000

/-- A module that has just been plugged in, with its reference and without; `HELD` by nothing, by `RST_N` and by a trip, and one that has lost its
standby domain; the pulse lengths at their limits; a reset in the removal sequence. -/
theorem witness_ResetAndBringUp :
    (let u : State := { rg [] with pwr := { Power.reset with refclk := true } }
     mayPowerUp (u.setVnode 5000) ∧ ¬mayPowerUp (u.setVnode 4999) ∧ ¬mayPowerUp ((rg []).setVnode 5000) ∧ u.pwr.st = .charging ∧ u.pwr.seated = true) ∧
    ((h Power.reset).mayRise = true ∧ (h { Power.reset with standby := false }).mayRise = true ∧
       ((h { Power.reset with tripped := true }).setVnode 5000).mayRise = false ∧ (h Power.reset).pwr.rstLow = false ∧
       (h { Power.reset with rstLow := true }).pwr.rstLow = true ∧
       ({ h { Power.reset with rstLow := true } with pwr := { (h { Power.reset with rstLow := true }).pwr with rstLow := false } } : State).mayRise = true ∧
       (h { Power.reset with tripped := true }).pwr.tripped = true ∧ (∀ i, i < 21 → tempAt (BitVec.ofNat 192 (85 * 2 ^ 160)) i ≤ 85) ∧
       85 < tempAt (BitVec.ofNat 192 (86 * 2 ^ 160)) 20) ∧
    ((999 : W32).toNat < 1000 ∧ 1000 ≤ (1000 : W32).toNat ∧ (9999 : W32).toNat < 10000 ∧ 10000 ≤ (10000 : W32).toNat) ∧
    ((up []).pwr.st ≠ .charging ∧ (up []).pwr.removing = false ∧ (up []).pwr.st ≠ .held ∧ (up []).pwr.standby = true ∧
      ({ (up []).pwr with removing := true } : Power).removing = true ∧ (rg []).pwr.st = .charging) := by
  unfold mayPowerUp
  decide +kernel

/-- Each way that a bring-up ends: a slot strap of 9; the boot option; the idle bank, good and bad; the active bank; the other bank at `RETRY` failures;
neither bank. -/
theorem witness_ResetAndBringUp_outcomes :
    let p := Power.reset
    let two : State := { rg [] with pwr := { p with bankB := p.bankA } }
    (8 < ({ p with slotStrap := 9 } : Power).slotStrap.toNat ∧ p.slotStrap.toNat ≤ 8) ∧
    two.ingotCheck (two.bank true) = 0 ∧ two.ingotCheck (two.bank false) = 0 ∧ (rg []).ingotCheck ((rg []).bank true) ≠ 0 ∧
    fld p.opt 19 16 = 3 ∧ (2 < fld p.opt 19 16 ∧ ¬min 15 (2 + 1) < fld p.opt 19 16) ∧
    (let n : State := { rg [] with pwr := { p with bankA := Ingot.blank } }
     n.ingotCheck (n.bank false) ≠ 0 ∧ n.ingotCheck (n.bank true) ≠ 0) := by decide +kernel

/-- The largest pointer and one past it; a pending alert. -/
theorem witness_ManagementBus :
    (up []).pwr.standby = true ∧ ((255 : W16).toNat ≤ 255 ∧ 255 < (256 : W16).toNat) ∧ (0x11 : Byte) ≠ 0x10 ∧
    ({ (up []).pwr with alert := 8 } : Power).alert ≠ 0 ∧ (List.replicate 255 (0 : Byte)).length < 256 := by decide +kernel

theorem witness_MouldAtReset : (up []).serving 255 = true := by decide +kernel

/-- The state at reset; a step of it idles. -/
theorem witness_MemoriesStayCanonical : State.reset.memoriesOk = true ∧ ∃ t, step State.reset = .next t := ⟨by decide, _, rfl⟩

end Sys2Proof.Tests
end

section
/-! PROOF. Stores of single bytes through the local address space (R75, R261 to R264): which bytes they change, and what they
leave as it was. -/
namespace Sys2Proof.Machine

/-! ## One byte -/

theorem ocBase_le_of_windowOf {a : Nat} (h : windowOf a = some .ocache) : ocBase ≤ a := by
  unfold windowOf at h
  grind

theorem dmBase_le_of_windowOf {a : Nat} (h : windowOf a = some .dmem) : dmBase ≤ a := by
  unfold windowOf at h
  grind

@[simp] theorem State.mould_withMem (s : State) (m : Mem) (g : Nat) : State.mould { s with mem := m } g = s.mould g := rfl

/-- An address inside a window reads the byte that was stored there. -/
theorem State.byteAt_putByte_same (s : State) (g a : Nat) (b : Byte) (h : windowOf a ≠ none) :
    (s.putByte g a b).byteAt g a = b := by
  unfold State.putByte State.byteAt
  cases hw : windowOf a with
  | none => exact absurd hw h
  | some w => cases w <;> simp

/-- Every other address reads what it read before. -/
theorem State.byteAt_putByte_other (s : State) (g a j : Nat) (b : Byte) (h : j ≠ a) :
    (s.putByte g a b).byteAt g j = s.byteAt g j := by
  have hoc (ha : windowOf a = some .ocache) (hj : windowOf j = some .ocache) : j - ocBase ≠ a - ocBase := by
    have := ocBase_le_of_windowOf ha
    have := ocBase_le_of_windowOf hj
    omega
  have hdm (ha : windowOf a = some .dmem) (hj : windowOf j = some .dmem) : j - dmBase ≠ a - dmBase := by
    have := dmBase_le_of_windowOf ha
    have := dmBase_le_of_windowOf hj
    omega
  unfold State.putByte State.byteAt
  cases ha : windowOf a with
  | none => rfl
  | some w =>
    cases hj : windowOf j with
    | none => cases w <;> rfl
    | some u => cases w <;> cases u <;> simp_all [Mem.get_put_other]

@[simp] theorem State.devAddr_putByte (s : State) (g a : Nat) (b : Byte) : (s.putByte g a b).devAddr = s.devAddr := by
  unfold State.putByte
  split <;> rfl

@[simp] theorem State.mould_regs_putByte (s : State) (g a : Nat) (b : Byte) :
    ((s.putByte g a b).mould g).regs = (s.mould g).regs := by
  unfold State.putByte
  split <;> simp

@[simp] theorem State.inTlog_putByte (s : State) (g a : Nat) (b : Byte) (j : Nat) :
    (s.putByte g a b).inTlog g j = s.inTlog g j := by
  unfold State.inTlog Mould.inTlog Mould.tlogRange Mould.reg
  rw [State.mould_regs_putByte]

/-! ## A list of bytes -/

/-- What every store of a list to an address satisfies, the byte there satisfies afterwards, once it was stored or where it
held before. -/
theorem State.byteAt_foldl_putByte (P : Byte → Prop) (g a : Nat) (hw : windowOf a ≠ none) (l : List (Nat × Byte)) :
    ∀ s : State, (∀ p ∈ l, p.1 = a → P p.2) → ((∃ p ∈ l, p.1 = a) ∨ P (s.byteAt g a)) →
      P ((l.foldl (fun s p => s.putByte g p.1 p.2) s).byteAt g a) := by
  induction l with
  | nil => simp
  | cons p l ih =>
    intro s hl h
    rw [List.forall_mem_cons] at hl
    refine ih _ hl.2 ?_
    by_cases hp : p.1 = a
    · right
      rw [← hp] at hw ⊢
      rw [byteAt_putByte_same _ _ _ _ hw]
      exact hl.1 hp
    · rw [byteAt_putByte_other _ _ _ _ _ (Ne.symm hp)]
      simpa [hp] using h

theorem State.devAddr_foldl_putByte (g : Nat) (l : List (Nat × Byte)) (s : State) :
    (l.foldl (fun s p => s.putByte g p.1 p.2) s).devAddr = s.devAddr := by
  induction l generalizing s with
  | nil => rfl
  | cons p l ih => exact (ih _).trans (s.devAddr_putByte ..)

theorem State.inTlog_foldl_putByte (g : Nat) (l : List (Nat × Byte)) (s : State) (j : Nat) :
    (l.foldl (fun s p => s.putByte g p.1 p.2) s).inTlog g j = s.inTlog g j := by
  induction l generalizing s with
  | nil => rfl
  | cons p l ih => exact (ih _).trans (s.inTlog_putByte ..)

@[simp] theorem State.byteAt_count (s : State) (o n g a : Nat) : (s.count o n).byteAt g a = s.byteAt g a := by
  simp [State.byteAt]

@[simp] theorem State.inTlog_count (s : State) (o n g a : Nat) : (s.count o n).inTlog g a = s.inTlog g a := by
  simp [State.inTlog]

theorem State.devAddr_count (s : State) (o n : Nat) (h : o ≠ Reg.RUN_TOPO) : (s.count o n).devAddr = s.devAddr := by
  simp [State.devAddr, State.field, State.reg_count, h.symm]

/-- `byteAt_foldl_putByte` for `storeList`, which counts read-modify-writes first. -/
theorem State.byteAt_storeList (P : Byte → Prop) (s : State) (g a : Nat) (l : List (Nat × Byte)) (hw : windowOf a ≠ none)
    (hl : ∀ p ∈ l, p.1 = a → P p.2) (h : (∃ p ∈ l, p.1 = a) ∨ P (s.byteAt g a)) : P ((s.storeList g l).byteAt g a) :=
  State.byteAt_foldl_putByte P g a hw l _ hl (by rwa [State.byteAt_count])

@[simp] theorem State.devAddr_storeList (s : State) (g : Nat) (l : List (Nat × Byte)) :
    (s.storeList g l).devAddr = s.devAddr :=
  (State.devAddr_foldl_putByte g l _).trans (State.devAddr_count _ _ _ (by decide))

@[simp] theorem State.inTlog_storeList (s : State) (g : Nat) (l : List (Nat × Byte)) (a : Nat) :
    (s.storeList g l).inTlog g a = s.inTlog g a :=
  (State.inTlog_foldl_putByte g l _ a).trans (State.inTlog_count ..)

/-! ## Through a descriptor -/

/-- A byte behind a descriptor of this device, outside the term log (R262, R263). -/
theorem View.byte_eq_byteAt {v : View} {s : State} {g a : Nat} (hd : v.dev = s.devAddr) (ha : s.inTlog g a = false) :
    v.byte s g a = s.byteAt g a := by
  simp [View.byte, hd, ha]

/-- Without scales or bitmap, the data are all that a store of codes writes. -/
theorem View.putCodes_planar {v : View} (hp : v.layout = .planar) (hb : v.blk = 0) (hz : v.zbm = false) (s : State) (g : Nat)
    (o : List Nat) (cs scales : List (Nat × Nat)) (zs : List (Nat × Bool)) :
    v.putCodes s g o cs scales zs = s.storeList g (v.planarWrites s g o cs) := by
  simp [View.putCodes, hp, hb, hz]

theorem View.putCodes_dense {v : View} (hd : v.layout = .dense) (hb : v.blk = 0) (hz : v.zbm = false) (s : State) (g : Nat)
    (o : List Nat) (cs scales : List (Nat × Nat)) (zs : List (Nat × Bool)) :
    v.putCodes s g o cs scales zs = s.storeList g (v.denseWrites o cs) := by
  simp [View.putCodes, hd, hb, hz]

end Sys2Proof.Machine
end

section
/-! PROOF. Codes stored into one run of a dense or planar tensor read back (R41 to R43, R75): the code that a view reads is
spelled by the bytes, or by the bits of the planes, at the addresses of R41 and R75, and a store writes the same places. -/
namespace Sys2Proof.Machine

theorem mul_add_inj {n x y u v : Nat} (hy : y < n) (hv : v < n) (h : x * n + y = u * n + v) : x = u ∧ y = v := by
  have hx : x = u := by
    have := congrArg (· / n) h
    simpa [Nat.mul_comm _ n, Nat.mul_add_div (Nat.zero_lt_of_lt hy), Nat.div_eq_of_lt hy, Nat.div_eq_of_lt hv] using this
  exact ⟨hx, by subst hx; omega⟩

/-- Two pairs of a list whose positions differ pairwise are the same where their positions are. -/
theorem eq_of_nodup_fst {cs : List (Nat × Nat)} (hn : (cs.map (·.1)).Nodup) {c d : Nat × Nat} (hc : c ∈ cs) (hd : d ∈ cs)
    (h : c.1 = d.1) : c = d := by
  induction cs with
  | nil => cases hc
  | cons x cs ih =>
    obtain ⟨hx, hn⟩ := List.nodup_cons.1 hn
    rcases List.mem_cons.1 hc with rfl | hc'
    · rcases List.mem_cons.1 hd with rfl | hd'
      · rfl
      · exact absurd (List.mem_map.2 ⟨d, hd', h.symm⟩) hx
    · rcases List.mem_cons.1 hd with rfl | hd'
      · exact absurd (List.mem_map.2 ⟨c, hc', h⟩) hx
      · exact ih hn hc' hd'

/-- Every byte of an element lies in a window of R261 and outside the mould's term log (R263). -/
def View.inMemory (v : View) (s : State) (g i : Nat) (o : List Nat) : Prop :=
  ∀ a ∈ v.elemBytes i o, windowOf a ≠ none ∧ s.inTlog g a = false

/-- A byte of the run after a store of single bytes, outside the term log. -/
theorem View.byte_storeList {v : View} {s : State} {g a : Nat} (hd : v.dev = s.devAddr) (ha : s.inTlog g a = false)
    (l : List (Nat × Byte)) : v.byte (s.storeList g l) g a = (s.storeList g l).byteAt g a :=
  View.byte_eq_byteAt (by simpa using hd) (by simpa using ha)

/-! ## Little-endian elements (R75) -/

theorem leBytes_eq (n v : Nat) : leBytes n v = (List.range n).map fun k => BitVec.ofNat 8 (v / 256 ^ k) := by
  induction n generalizing v with
  | zero => rfl
  | succ n ih =>
    simp [leBytes, ih, List.range_succ_eq_map, Nat.div_div_eq_div_mul, Nat.pow_succ']

theorem leNat_leBytes (n v : Nat) : leNat (leBytes n v) = v % 256 ^ n := by
  induction n generalizing v with
  | zero => simp [leBytes, leNat, Nat.mod_one]
  | succ n ih => simp [leBytes, leNat, ih, Nat.pow_succ', Nat.mod_mul]

section Dense
variable {v : View} {s : State} {g : Nat} {o : List Nat} {cs : List (Nat × Nat)}

theorem View.elemBytes_dense (hl : v.layout = .dense) (i : Nat) (o : List Nat) :
    v.elemBytes i o = (List.range (v.fmt.width / 8)).map fun k => v.runAddr o + i * (v.fmt.width / 8) + k := by
  simp [View.elemBytes, hl]

theorem View.code_dense (hl : v.layout = .dense) (s : State) (g i : Nat) (o : List Nat) :
    v.code s g i o = leNat ((v.elemBytes i o).map (v.byte s g)) := by
  simp [View.code, hl]

theorem View.mem_denseWrites {x : Nat × Byte} :
    x ∈ v.denseWrites o cs ↔ ∃ c ∈ cs, ∃ k < v.fmt.width / 8,
      x = (v.runAddr o + c.1 * (v.fmt.width / 8) + k, BitVec.ofNat 8 (c.2 / 256 ^ k)) := by
  have hrow (a n c : Nat) : (leBytes n c).zipIdx.map (fun b => (a + b.2, b.1)) =
      (List.range n).map fun k => (a + k, BitVec.ofNat 8 (c / 256 ^ k)) := by
    rw [leBytes_eq]
    apply List.ext_getElem <;> simp
  simp only [View.denseWrites, hrow, List.mem_flatMap, List.mem_map, List.mem_range, eq_comm]

/-- R75: an element whose bytes were stored reads its code. -/
theorem View.code_denseWrites_same (hl : v.layout = .dense) (hd : v.dev = s.devAddr) (h8 : v.fmt.width % 8 = 0)
    (hn : (cs.map (·.1)).Nodup) {c : Nat × Nat} (hc : c ∈ cs) (hlt : c.2 < 2 ^ v.fmt.width) (ha : v.inMemory s g c.1 o) :
    v.code (s.storeList g (v.denseWrites o cs)) g c.1 o = c.2 := by
  have hbytes : (v.elemBytes c.1 o).map (v.byte (s.storeList g (v.denseWrites o cs)) g) = leBytes (v.fmt.width / 8) c.2 := by
    rw [View.elemBytes_dense hl, leBytes_eq, List.map_map]
    refine List.map_congr_left fun k hk => ?_
    obtain ⟨hw, ht⟩ := ha _ (View.elemBytes_dense hl c.1 o ▸ List.mem_map_of_mem hk)
    rw [List.mem_range] at hk
    rw [Function.comp_apply, View.byte_storeList hd ht]
    refine State.byteAt_storeList (· = BitVec.ofNat 8 (c.2 / 256 ^ k)) s g _ _ hw ?_
      (.inl ⟨_, View.mem_denseWrites.2 ⟨c, hc, k, hk, rfl⟩, rfl⟩)
    intro p hp he
    obtain ⟨d, hd, j, hj, rfl⟩ := View.mem_denseWrites.1 hp
    obtain ⟨h1, rfl⟩ := mul_add_inj hj hk (by simpa [Nat.add_assoc] using he)
    rw [eq_of_nodup_fst hn hd hc h1]
  have hpow : 256 ^ (v.fmt.width / 8) = 2 ^ v.fmt.width := by
    rw [show 256 = 2 ^ 8 from rfl, ← Nat.pow_mul, Nat.mul_div_cancel' (Nat.dvd_of_mod_eq_zero h8)]
  rw [View.code_dense hl, hbytes, leNat_leBytes, hpow, Nat.mod_eq_of_lt hlt]

/-- R75: an element none of whose bytes were stored reads as before. -/
theorem View.code_denseWrites_other {i : Nat} (hl : v.layout = .dense) (hd : v.dev = s.devAddr) (hi : ∀ c ∈ cs, c.1 ≠ i)
    (ha : v.inMemory s g i o) :
    v.code (s.storeList g (v.denseWrites o cs)) g i o = v.code s g i o := by
  rw [View.code_dense hl, View.code_dense hl]
  refine congrArg leNat (List.map_congr_left fun a hm => ?_)
  obtain ⟨hw, ht⟩ := ha a hm
  rw [View.byte_storeList hd ht, View.byte_eq_byteAt hd ht]
  refine State.byteAt_storeList (· = s.byteAt g a) s g a _ hw ?_ (.inr rfl)
  intro p hp he
  rw [View.elemBytes_dense hl] at hm
  obtain ⟨k, hk, rfl⟩ := List.mem_map.1 hm
  obtain ⟨c, hc, j, hj, rfl⟩ := View.mem_denseWrites.1 hp
  exact absurd (mul_add_inj hj (List.mem_range.1 hk) (by simpa [Nat.add_assoc] using he)).1 (hi c hc)

end Dense

/-! ## Bit planes (R41, R42) -/

section Planar
variable {v : View} {s : State} {g : Nat} {o : List Nat} {cs : List (Nat × Nat)}

/-- R41: the address of the byte that holds the bit of element i in the p-th plane from the top. -/
def View.bitAddr (v : View) (o : List Nat) (i p : Nat) : Nat :=
  v.runAddr o + i / v.gsize * (v.fmt.width * v.gsize / 8) + p * (v.gsize / 8) + i % v.gsize / 8

theorem View.elemBytes_planar (hl : v.layout = .planar) (i : Nat) (o : List Nat) :
    v.elemBytes i o = (List.range v.fmt.width).map (v.bitAddr o i) := by
  simp [View.elemBytes, hl, View.bitAddr]

/-- R43: the code is spelled by the element's bits, top plane first. -/
theorem View.code_planar (hl : v.layout = .planar) (s : State) (g i : Nat) (o : List Nat) :
    v.code s g i o = truncPlanes v.fmt.width v.planes ((List.range v.fmt.width).foldl
      (fun acc p => 2 * acc + b2n ((v.byte s g (v.bitAddr o i p)).getLsbD (i % 8))) 0) := by
  simp only [View.code, hl, View.elemBytes_planar hl, List.foldl_map]

/-- R41: a byte of a plane holds the bits of one plane of eight neighbouring elements. -/
theorem View.bitAddr_inj {i j p q : Nat} (hg : v.gsize = 512 ∨ v.gsize = 4096) (hp : p < v.fmt.width)
    (hq : q < v.fmt.width) (h : v.bitAddr o i p = v.bitAddr o j q) : p = q ∧ i / 8 = j / 8 := by
  obtain ⟨n, hn, hG⟩ : ∃ n, 0 < n ∧ v.gsize = 8 * n := by
    rcases hg with e | e
    · exact ⟨64, by decide, e⟩
    · exact ⟨512, by decide, e⟩
  have hrow : v.fmt.width * (8 * n) / 8 = v.fmt.width * n := by
    rw [Nat.mul_left_comm, Nat.mul_div_cancel_left _ (by decide)]
  have hpos (k : Nat) : k % (8 * n) / 8 < n := Nat.div_lt_of_lt_mul (Nat.mod_lt _ (by omega))
  simp only [View.bitAddr, hG, hrow, Nat.mul_div_cancel_left n (show 0 < 8 by decide), Nat.add_assoc,
    Nat.add_left_cancel_iff] at h
  have h' : (i / (8 * n) * v.fmt.width + p) * n + i % (8 * n) / 8 = (j / (8 * n) * v.fmt.width + q) * n + j % (8 * n) / 8 := by
    simpa only [Nat.add_mul, Nat.mul_assoc, Nat.add_assoc] using h
  obtain ⟨hrow', hb⟩ := mul_add_inj (hpos i) (hpos j) h'
  obtain ⟨hgrp, rfl⟩ := mul_add_inj hp hq hrow'
  have hdiv (k : Nat) : k / 8 = n * (k / (8 * n)) + k % (8 * n) / 8 := by
    conv => lhs; rw [← Nat.div_add_mod k (8 * n), Nat.mul_assoc, Nat.mul_add_div (by decide)]
  exact ⟨rfl, by rw [hdiv i, hdiv j, hgrp, hb]⟩

theorem foldl_congr {α β : Type} {f g : β → α → β} {l : List α} {a : β} (h : ∀ b, ∀ x ∈ l, f b x = g b x) :
    l.foldl f a = l.foldl g a := by
  induction l generalizing a with
  | nil => rfl
  | cons x l ih =>
    rw [List.foldl_cons, List.foldl_cons, h a x List.mem_cons_self]
    exact ih fun b y hy => h b y (List.mem_cons_of_mem x hy)

theorem foldr_bits (f : Nat → Nat) (hf : ∀ i, f i < 2) {n i : Nat} (hi : i < n) :
    (List.range n).foldr (fun i acc => f i + 2 * acc) 0 / 2 ^ i % 2 = f i := by
  induction n generalizing f i with
  | zero => exact absurd hi (Nat.not_lt_zero _)
  | succ n ih =>
    rw [List.range_succ_eq_map, List.foldr_cons, List.foldr_map]
    cases i with
    | zero => have := hf 0; omega
    | succ i =>
      rw [Nat.pow_succ', ← Nat.div_div_eq_div_mul]
      have := hf 0
      rw [show ∀ x, (f 0 + 2 * x) / 2 = x by omega]
      exact ih (fun i => f (i + 1)) (fun i => hf _) (by omega)

/-- The bits of a code, top first, spell it. -/
theorem foldl_bits {w c : Nat} (hc : c < 2 ^ w) {n : Nat} (hn : n ≤ w) :
    (List.range n).foldl (fun acc p => 2 * acc + c / 2 ^ (w - 1 - p) % 2) 0 = c / 2 ^ (w - n) := by
  induction n with
  | zero => simp [Nat.div_eq_of_lt hc]
  | succ n ih =>
    rw [List.range_succ, List.foldl_append, ih (by omega), List.foldl_cons, List.foldl_nil,
      show w - n = w - 1 - n + 1 by omega, show w - (n + 1) = w - 1 - n by omega, Nat.pow_succ, ← Nat.div_div_eq_div_mul]
    omega

/-- The bit of element i in the p-th plane from the top after a store of codes: the code's, or the one stored before. -/
def View.bitAfter (v : View) (s : State) (g : Nat) (o : List Nat) (cs : List (Nat × Nat)) (i p : Nat) : Nat :=
  match cs.find? (fun c => c.1 == i) with
  | some c => c.2 / 2 ^ (v.fmt.width - 1 - p) % 2
  | none => b2n ((s.byteAt g (v.bitAddr o i p)).getLsbD (i % 8))

theorem foldr_bits_getLsbD (f : Nat → Nat) (hf : ∀ i, f i < 2) {i : Nat} (hi : i < 8) :
    b2n ((BitVec.ofNat 8 ((List.range 8).foldr (fun i acc => f i + 2 * acc) 0)).getLsbD i) = f i := by
  rw [← foldr_bits f hf hi, BitVec.getLsbD_ofNat, Nat.testBit_eq_decide_div_mod_eq]
  simp only [hi, decide_true, Bool.true_and, b2n, decide_eq_true_eq]
  split <;> omega

theorem b2n_lt_two (b : Bool) : b2n b < 2 := by cases b <;> decide

/-- Neighbouring elements share their bytes. -/
theorem View.bitAddr_add (hg : v.gsize = 512 ∨ v.gsize = 4096) (o : List Nat) {i b : Nat} (hi : i < 8) (gi p : Nat)
    (hb : b < v.gsize / 8) :
    v.bitAddr o (gi * v.gsize + 8 * b + i) p =
      v.runAddr o + gi * (v.fmt.width * v.gsize / 8) + p * (v.gsize / 8) + b := by
  have hdiv : (gi * v.gsize + 8 * b + i) / v.gsize = gi := by
    rcases hg with e | e <;> rw [e] at hb ⊢ <;> omega
  have hmod : (gi * v.gsize + 8 * b + i) % v.gsize / 8 = b := by
    rcases hg with e | e <;> rw [e] at hb ⊢ <;> omega
  rw [View.bitAddr, hdiv, hmod]

/-- Looking a position up in its own block of eight is looking it up. -/
theorem find?_filter_block (cs : List (Nat × Nat)) {lo i : Nat} (hi : lo ≤ i ∧ i < lo + 8) :
    (cs.filter fun c => decide (lo ≤ c.1 ∧ c.1 < lo + 8)).find? (fun c => c.1 == i) = cs.find? fun c => c.1 == i := by
  rw [List.find?_filter]
  refine congrArg (List.find? · cs) (funext fun c => ?_)
  by_cases hc : c.1 = i
  · simp [hc, hi]
  · simp [hc]

/-- R41, R42: the bytes that a store of codes writes hold, for every element of the run in them, the bit after the store. -/
theorem View.planarWrites_bit {x : Nat × Byte} (hg : v.gsize = 512 ∨ v.gsize = 4096) (hx : x ∈ v.planarWrites s g o cs)
    {i p : Nat} (hi : i < v.e 0) (hp : p < v.fmt.width) (ha : x.1 = v.bitAddr o i p) :
    b2n (x.2.getLsbD (i % 8)) = v.bitAfter s g o cs i p := by
  simp only [View.planarWrites, List.mem_flatMap, List.mem_filterMap, List.mem_range] at hx
  obtain ⟨gi, -, q, hq, b, hb, hx⟩ := hx
  split at hx
  · cases hx
  · cases hx
    rw [← View.bitAddr_add hg o (show 0 < 8 by decide) gi q hb] at ha
    obtain ⟨rfl, hdiv⟩ := View.bitAddr_inj hg hq hp ha
    have he : gi * v.gsize + 8 * b + i % 8 = i := by
      rcases hg with e | e <;> rw [e] at hdiv ⊢ <;> omega
    refine (foldr_bits_getLsbD _ (fun k => ?_) (Nat.mod_lt i (by decide))).trans ?_
    · split
      · decide
      · split
        · exact Nat.mod_lt _ (by decide)
        · exact b2n_lt_two _
    · have hfind := find?_filter_block cs (i := i) (lo := gi * v.gsize + 8 * b) (by omega)
      have hb' := View.bitAddr_add hg o (Nat.mod_lt i (show 0 < 8 by decide)) gi q hb
      rw [he] at hb' ⊢
      cases hc : cs.find? (fun c => c.1 == i) <;> simp only [View.bitAfter, hfind, hc, hb', if_neg (Nat.not_le.2 hi)]

/-- R41: the bytes of every code stored are among those written. -/
theorem View.mem_planarWrites (hg : v.gsize = 512 ∨ v.gsize = 4096) (s : State) (g : Nat) (o : List Nat)
    {c : Nat × Nat} (hc : c ∈ cs) (hi : c.1 < v.e 0) {p : Nat} (hp : p < v.fmt.width) :
    ∃ x ∈ v.planarWrites s g o cs, x.1 = v.bitAddr o c.1 p := by
  have hgi : c.1 / v.gsize < cdiv (v.e 0) v.gsize := by
    unfold cdiv
    rcases hg with e | e <;> rw [e] <;> omega
  have hb : c.1 % v.gsize / 8 < v.gsize / 8 := by
    rcases hg with e | e <;> rw [e] <;> omega
  have hblk : c.1 / v.gsize * v.gsize + 8 * (c.1 % v.gsize / 8) ≤ c.1 ∧
      c.1 < c.1 / v.gsize * v.gsize + 8 * (c.1 % v.gsize / 8) + 8 := by
    rcases hg with e | e <;> rw [e] <;> omega
  have hmine : ¬((cs.filter fun d => decide (c.1 / v.gsize * v.gsize + 8 * (c.1 % v.gsize / 8) ≤ d.1 ∧
      d.1 < c.1 / v.gsize * v.gsize + 8 * (c.1 % v.gsize / 8) + 8)).isEmpty &&
        decide (c.1 / v.gsize * v.gsize + 8 * (c.1 % v.gsize / 8) + 8 ≤ v.e 0)) = true := by
    rw [List.isEmpty_eq_false_iff.2 (List.ne_nil_of_mem (List.mem_filter.2 ⟨hc, decide_eq_true hblk⟩))]
    simp
  simp only [View.planarWrites, List.mem_flatMap, List.mem_filterMap, List.mem_filter, List.mem_range]
  exact ⟨_, ⟨c.1 / v.gsize, ⟨hgi, List.any_eq_true.2 ⟨c, hc, by simp⟩⟩, p, hp, c.1 % v.gsize / 8, hb, if_neg hmine⟩, rfl⟩

/-- R41: bit by bit, what a store of codes leaves in the run. -/
theorem View.bit_planarWrites {i p : Nat} (hl : v.layout = .planar) (hg : v.gsize = 512 ∨ v.gsize = 4096)
    (hd : v.dev = s.devAddr) (hcs : ∀ c ∈ cs, c.1 < v.e 0) (hi : i < v.e 0) (hp : p < v.fmt.width) (ha : v.inMemory s g i o) :
    b2n ((v.byte (s.storeList g (v.planarWrites s g o cs)) g (v.bitAddr o i p)).getLsbD (i % 8)) =
      v.bitAfter s g o cs i p := by
  obtain ⟨hw, ht⟩ := ha _ (View.elemBytes_planar hl i o ▸ List.mem_map_of_mem (List.mem_range.2 hp))
  rw [View.byte_storeList hd ht]
  refine State.byteAt_storeList (fun b => b2n (b.getLsbD (i % 8)) = v.bitAfter s g o cs i p) s g _ _ hw
    (fun x hx he => View.planarWrites_bit hg hx hi hp he) ?_
  cases hc : cs.find? (fun c => c.1 == i) with
  | none => exact .inr (by simp only [View.bitAfter, hc])
  | some c =>
    have hci : c.1 = i := by simpa using List.find?_some hc
    exact .inl (hci ▸ View.mem_planarWrites hg s g o (List.mem_of_find?_eq_some hc) (hcs c (List.mem_of_find?_eq_some hc)) hp)

/-- R41, R43: an element whose code was stored reads its top planes. -/
theorem View.code_planarWrites_same (hl : v.layout = .planar) (hg : v.gsize = 512 ∨ v.gsize = 4096)
    (hd : v.dev = s.devAddr) (hn : (cs.map (·.1)).Nodup) (hcs : ∀ c ∈ cs, c.1 < v.e 0)
    {c : Nat × Nat} (hc : c ∈ cs) (hlt : c.2 < 2 ^ v.fmt.width) (ha : v.inMemory s g c.1 o) :
    v.code (s.storeList g (v.planarWrites s g o cs)) g c.1 o = truncPlanes v.fmt.width v.planes c.2 := by
  have hfind : cs.find? (fun d => d.1 == c.1) = some c := by
    obtain ⟨d, hd⟩ := Option.isSome_iff_exists.1 (List.find?_isSome (p := fun d => d.1 == c.1).2 ⟨c, hc, by simp⟩)
    rw [hd, eq_of_nodup_fst hn (List.mem_of_find?_eq_some hd) hc (by simpa using List.find?_some hd)]
  have hbits := foldl_bits hlt (Nat.le_refl v.fmt.width)
  rw [Nat.sub_self, Nat.pow_zero, Nat.div_one] at hbits
  rw [View.code_planar hl]
  refine congrArg _ (Eq.trans (foldl_congr fun acc p hp => ?_) hbits)
  rw [View.bit_planarWrites hl hg hd hcs (hcs c hc) (List.mem_range.1 hp) ha]
  simp only [View.bitAfter, hfind]

/-- R41: an element whose code was not stored reads as before, also where it shares its bytes with one that was. -/
theorem View.code_planarWrites_other {i : Nat} (hl : v.layout = .planar) (hg : v.gsize = 512 ∨ v.gsize = 4096)
    (hd : v.dev = s.devAddr) (hcs : ∀ c ∈ cs, c.1 < v.e 0) (hi : i < v.e 0) (hne : ∀ c ∈ cs, c.1 ≠ i)
    (ha : v.inMemory s g i o) :
    v.code (s.storeList g (v.planarWrites s g o cs)) g i o = v.code s g i o := by
  have hfind : cs.find? (fun c => c.1 == i) = none := List.find?_eq_none.2 fun c hc => by simpa using hne c hc
  rw [View.code_planar hl, View.code_planar hl]
  refine congrArg _ (foldl_congr fun acc p hp => ?_)
  rw [View.bit_planarWrites hl hg hd hcs hi (List.mem_range.1 hp) ha]
  rw [View.byte_eq_byteAt hd (ha _ (View.elemBytes_planar hl i o ▸ List.mem_map_of_mem hp)).2]
  simp only [View.bitAfter, hfind]

end Planar

/-! ## O26 -/

/-- Settles O26: by the layout, from the bytes of a dense run or the bits of a planar one. -/
theorem runStoreReadsBack : Obligations.RunStoreReadsBack := by
  intro s g v o cs hsp hb hz hd h8 hg hn hcs hwin
  obtain ⟨k, hk⟩ := hwin
  have ha (i : Nat) (hi : i < v.e 0) : v.inMemory s g i o := by
    intro a hm
    obtain ⟨hw, ht⟩ := hk i hi a hm
    exact ⟨by simp [hw], ht⟩
  have hpos (c : Nat × Nat) (hc : c ∈ cs) : c.1 < v.e 0 := (hcs c hc).1
  cases hl : v.layout with
  | sparse => exact absurd hl hsp
  | dense =>
    rw [View.putCodes_dense hl hb hz]
    exact ⟨fun c hc => View.code_denseWrites_same hl hd (h8 hl) hn hc (hcs c hc).2 (ha _ (hpos c hc)),
      fun i hi hne => View.code_denseWrites_other hl hd hne (ha i hi)⟩
  | planar =>
    rw [View.putCodes_planar hl hb hz]
    exact ⟨fun c hc => View.code_planarWrites_same hl hg hd hn hpos hc (hcs c hc).2 (ha _ (hpos c hc)),
      fun i hi hne => View.code_planarWrites_other hl hg hd hpos hi hne (ha i hi)⟩

end Sys2Proof.Machine
end

section
/-! PROOF. Conversion of finite values (R24, R27, R28, R30): a magnitude that is a whole number of units is not changed by
rounding, so the code of a value that the format represents is found again; and no code beyond the largest finite magnitude is
written. -/
namespace Sys2Proof.Num

/-! ## Rounding -/

/-- R27, R28: a magnitude that is a whole number of units is not changed, in any mode. -/
theorem roundUnits_exact (m : Nat) (e : Int) (mode : RMode) (rnd : W32) : roundUnits m 1 e e mode rnd = m := by
  cases mode <;> simp [roundUnits, Nat.mod_one]

theorem roundUnits_zero (e q : Int) (mode : RMode) (rnd : W32) : roundUnits 0 1 e q mode rnd = 0 := by
  cases mode <;> simp [roundUnits]

theorem flog2q_one {m : Nat} (hm : m ≠ 0) (e : Int) : flog2q m 1 e = flog2 m e := by
  have hlog : Nat.log2 1 = 0 := by decide
  simp [flog2q, flog2, hlog, Nat.log2_self_le hm]

theorem magCode_of_flog2 (sp : FloatSpec) {m : Nat} (hm : m ≠ 0) {e q : Int}
    (hq : max (flog2 m e - sp.mant) (1 - sp.bias - sp.mant) = q) (mode : RMode) (rnd : W32) :
    magCode sp m 1 e mode rnd =
      if roundUnits m 1 e q mode rnd < 2 ^ sp.mant then roundUnits m 1 e q mode rnd
      else (q + sp.mant + sp.bias).toNat * 2 ^ sp.mant + (roundUnits m 1 e q mode rnd - 2 ^ sp.mant) := by
  simp only [magCode, if_neg hm, flog2q_one hm, hq]

/-- R21, R27: a subnormal magnitude, zero among them, is its own code. -/
theorem magCode_subnormal (sp : FloatSpec) {m : Nat} (hm : m < 2 ^ sp.mant) (mode : RMode) (rnd : W32) :
    magCode sp m 1 (1 - sp.bias - sp.mant) mode rnd = m := by
  by_cases h0 : m = 0
  · simp [magCode, h0]
  · have hlog : Nat.log2 m < sp.mant := (Nat.log2_lt h0).2 hm
    rw [magCode_of_flog2 sp h0 (Int.max_eq_right (by unfold flog2; omega)), roundUnits_exact, if_pos hm]

/-- R21, R27: a normal magnitude has the exponent field and the mantissa field that it is written with. -/
theorem magCode_normal (sp : FloatSpec) {x m : Nat} (hx : x ≠ 0) (hm : m < 2 ^ sp.mant) (mode : RMode) (rnd : W32) :
    magCode sp (2 ^ sp.mant + m) 1 (x - sp.bias - sp.mant) mode rnd = x * 2 ^ sp.mant + m := by
  have h0 : 2 ^ sp.mant + m ≠ 0 := Nat.ne_of_gt (Nat.add_pos_left (Nat.two_pow_pos _) m)
  have hlog : Nat.log2 (2 ^ sp.mant + m) = sp.mant := (Nat.log2_eq_iff h0).2 ⟨by omega, by rw [Nat.pow_succ]; omega⟩
  have hq : max (flog2 (2 ^ sp.mant + m) (x - sp.bias - sp.mant) - sp.mant) (1 - sp.bias - sp.mant) =
      (x : Int) - sp.bias - sp.mant := by
    rw [flog2, hlog]
    omega
  have hfield : ((x : Int) - sp.bias - sp.mant + sp.mant + sp.bias).toNat = x := by omega
  rw [magCode_of_flog2 sp h0 hq, roundUnits_exact, hfield, if_neg (by omega), Nat.add_sub_cancel_left]

/-! ## Float formats -/

/-- The code of a sign and a magnitude code (R20). -/
def signMag (f : Fmt) (sp : FloatSpec) (neg : Bool) (mag : Nat) : Nat :=
  if sp.signed && neg then mag + 2 ^ (f.width - 1) else mag

/-- The value of a finite magnitude code (R21). -/
def finOf (sp : FloatSpec) (neg : Bool) (mag : Nat) : Val :=
  if mag / 2 ^ sp.mant = 0 then .fin neg (mag % 2 ^ sp.mant) (1 - sp.bias - sp.mant)
  else .fin neg (2 ^ sp.mant + mag % 2 ^ sp.mant) ((mag / 2 ^ sp.mant : Nat) - sp.bias - sp.mant)

theorem finOf_isFin (sp : FloatSpec) (neg : Bool) (mag : Nat) : (finOf sp neg mag).isFin = true := by
  unfold finOf
  split <;> rfl

theorem finOf_abs (sp : FloatSpec) (neg : Bool) (mag : Nat) : (finOf sp neg mag).abs = finOf sp false mag := by
  unfold finOf
  split <;> rfl

theorem two_pow_width (f : Fmt) : 2 ^ f.width = 2 ^ (f.width - 1) + 2 ^ (f.width - 1) := by cases f <;> decide

section Float
variable {f : Fmt} {sp : FloatSpec} (h : f.spec = some sp)
include h

/-- The largest finite magnitude code lies below the sign bit. -/
theorem maxCode_lt : sp.maxCode < 2 ^ (if sp.signed then f.width - 1 else f.width) := by
  cases f <;> cases h <;> decide

theorem signMag_lt {mag : Nat} (hm : mag ≤ sp.maxCode) (neg : Bool) : signMag f sp neg mag < 2 ^ f.width := by
  have hlt := maxCode_lt h
  have hpow := two_pow_width f
  cases hs : sp.signed with
  | false =>
    rw [hs] at hlt
    simpa [signMag, hs] using Nat.lt_of_le_of_lt hm hlt
  | true =>
    rw [hs, if_pos rfl] at hlt
    cases neg <;> simp [signMag, hs] <;> omega

/-- R20 to R22: how a code falls into sign and magnitude, and which magnitudes are finite. -/
theorem decode_float {c : Nat} (hc : c < 2 ^ f.width) :
    decode f c =
      let neg := sp.signed && c / 2 ^ (f.width - 1) % 2 == 1
      let mag := if sp.signed then c % 2 ^ (f.width - 1) else c
      if mag ≤ sp.maxCode then finOf sp neg mag
      else if sp.infExp = some (mag / 2 ^ sp.mant) ∧ mag % 2 ^ sp.mant = 0 then .inf neg else .nan := by
  simp [decode, h, bits, finOf, Nat.mod_eq_of_lt hc]

/-- R21: a code whose magnitude is at most the largest finite one has the value of its sign and magnitude. -/
theorem decode_signMag {mag : Nat} (hm : mag ≤ sp.maxCode) (neg : Bool) :
    decode f (signMag f sp neg mag) = finOf sp (sp.signed && neg) mag := by
  have hlt := maxCode_lt h
  rw [decode_float h (signMag_lt h hm neg)]
  cases hs : sp.signed with
  | false => simp [signMag, hs, hm]
  | true =>
    rw [hs, if_pos rfl] at hlt
    have hmag : mag < 2 ^ (f.width - 1) := by omega
    cases neg <;> simp [signMag, hs, hm, Nat.mod_eq_of_lt hmag, Nat.div_eq_of_lt hmag,
      Nat.add_div_right mag (Nat.two_pow_pos (f.width - 1))]

/-- R21, R22: the code of a finite value is its sign and a magnitude at most the largest finite one. -/
theorem exists_signMag {c : Nat} (hc : c < 2 ^ f.width) (hf : (decode f c).isFin = true) :
    ∃ neg mag, (neg = true → sp.signed = true) ∧ mag ≤ sp.maxCode ∧ c = signMag f sp neg mag := by
  refine ⟨sp.signed && c / 2 ^ (f.width - 1) % 2 == 1, if sp.signed then c % 2 ^ (f.width - 1) else c, by simp_all, ?_, ?_⟩
  · refine Decidable.byContradiction fun hgt => ?_
    rw [decode_float h hc] at hf
    simp only [if_neg hgt, apply_ite Val.isFin] at hf
    simp [Val.isFin] at hf
  · unfold signMag
    cases hs : sp.signed with
    | false => simp
    | true =>
      have hdiv := Nat.div_add_mod' c (2 ^ (f.width - 1))
      have hpow := two_pow_width f
      have htop : c / 2 ^ (f.width - 1) < 2 := Nat.div_lt_of_lt_mul (by omega)
      generalize c / 2 ^ (f.width - 1) = q at hdiv htop ⊢
      rcases (by omega : q = 0 ∨ q = 1) with rfl | rfl
      · rw [Nat.zero_mul, Nat.zero_add] at hdiv
        simpa using hdiv.symm
      · rw [Nat.one_mul, Nat.add_comm] at hdiv
        simpa using hdiv.symm

/-- R27, R30: a finite value that the format has the sign of is written with its sign, and at most the largest magnitude. -/
theorem convert_fin {neg : Bool} {m : Nat} (hs : ¬(m ≠ 0 ∧ neg = true ∧ sp.signed = false)) (mode : RMode) (rnd : W32)
    (e : Int) :
    convert f mode rnd (.fin neg m e) =
      if sp.maxCode < magCode sp m 1 e mode rnd then (signMag f sp neg sp.maxCode, .magnitude)
      else (signMag f sp neg (magCode sp m 1 e mode rnd), .none) := by
  simp_all [convert, signMag]

/-- R27, R28: the value of a finite code is written as that code. -/
theorem convert_finOf {neg : Bool} (hs : neg = true → sp.signed = true) {mag : Nat} (hm : mag ≤ sp.maxCode) (mode : RMode)
    (rnd : W32) : convert f mode rnd (finOf sp neg mag) = (signMag f sp neg mag, .none) := by
  have hmant : mag % 2 ^ sp.mant < 2 ^ sp.mant := Nat.mod_lt _ (Nat.two_pow_pos _)
  have hsplit := Nat.div_add_mod' mag (2 ^ sp.mant)
  have hneg (m : Nat) : ¬(m ≠ 0 ∧ neg = true ∧ sp.signed = false) := fun ⟨_, h1, h2⟩ => by simp [hs h1] at h2
  unfold finOf
  split
  · rename_i h0
    rw [h0, Nat.zero_mul, Nat.zero_add] at hsplit
    rw [convert_fin h (hneg _), magCode_subnormal sp hmant, hsplit, if_neg (by omega)]
  · rename_i h0
    rw [convert_fin h (hneg _), magCode_normal sp h0 hmant, hsplit, if_neg (by omega)]

/-- R27, R30, R31: a finite value is written as a finite code of the format, and a magnitude clamp gives the largest one. -/
theorem convert_fin_cases (mode : RMode) (rnd : W32) (neg : Bool) (m : Nat) (e : Int) :
    ∃ b mag cl, mag ≤ sp.maxCode ∧ (cl = .magnitude → mag = sp.maxCode) ∧
      convert f mode rnd (.fin neg m e) = (signMag f sp b mag, cl) := by
  by_cases hs : m ≠ 0 ∧ neg = true ∧ sp.signed = false
  · refine ⟨false, 0, .domain, Nat.zero_le _, by simp, ?_⟩
    simp [convert, signMag, h, hs]
  · rw [convert_fin h hs]
    split
    · exact ⟨neg, sp.maxCode, .magnitude, (Nat.le_refl _), fun _ => rfl, rfl⟩
    · exact ⟨neg, _, .none, Nat.le_of_not_lt ‹_›, by simp, rfl⟩

end Float

/-! ## Integer formats -/

/-- The largest magnitude of a sign that an integer format is written with (R24). -/
def intTop (f : Fmt) (neg : Bool) : Nat := if neg then (intRange f).1 else (intRange f).2

theorem intCode_lt {f : Fmt} {k : Nat} (hk : k < 2 ^ f.width) (neg : Bool) : intCode f.width neg k < 2 ^ f.width := by
  unfold intCode
  rw [Nat.mod_eq_of_lt hk]
  split
  · rename_i hneg
    simp only [Bool.and_eq_true, bne_iff_ne] at hneg
    omega
  · exact hk

theorem twos_intCode {f : Fmt} {k : Nat} (hk : k < 2 ^ (f.width - 1)) (neg : Bool) :
    twos f.width (intCode f.width neg k) = if neg then -(k : Int) else k := by
  have hpow := two_pow_width f
  unfold twos
  rw [Nat.mod_eq_of_lt (intCode_lt (by omega) neg)]
  unfold intCode
  rw [Nat.mod_eq_of_lt (show k < 2 ^ f.width by omega)]
  by_cases h0 : k = 0
  · simp [h0]
  · cases neg
    · simp [hk]
    · simp only [Bool.true_and, bne_iff_ne, ne_eq, h0, not_false_eq_true, if_true]
      rw [if_neg (by omega)]
      omega

theorem exists_intCode_of_ne {f : Fmt} {c : Nat} (hc : c < 2 ^ f.width) (hmin : c ≠ 2 ^ (f.width - 1)) :
    ∃ neg k, (neg = true → k ≠ 0) ∧ k < 2 ^ (f.width - 1) ∧ c = intCode f.width neg k := by
  have hpow := two_pow_width f
  by_cases hlt : c < 2 ^ (f.width - 1)
  · exact ⟨false, c, by simp, hlt, by simp [intCode, Nat.mod_eq_of_lt hc]⟩
  · refine ⟨true, 2 ^ f.width - c, by omega, by omega, ?_⟩
    rw [intCode, if_pos (by simp; omega), Nat.mod_eq_of_lt (by omega)]
    omega

theorem ofInt_sign (neg : Bool) (k : Nat) : Val.ofInt (if neg then -(k : Int) else k) = .fin (neg && k != 0) k 0 := by
  cases neg with
  | false => simp [Val.ofInt]
  | true => by_cases h0 : k = 0 <;> simp [Val.ofInt, h0, Nat.pos_of_ne_zero]

/-- The two's-complement formats, whose written range is symmetric (R24). -/
theorem signed_spec {f : Fmt} (hf : f = .int8 ∨ f = .int4 ∨ f = .int32) :
    (∀ c, decode f c = Val.ofInt (twos f.width c)) ∧ ∀ neg, intTop f neg + 1 = 2 ^ (f.width - 1) := by
  rcases hf with rfl | rfl | rfl <;>
    exact ⟨fun c => by simp [decode, Fmt.spec, twos], by decide⟩

theorem uint16_decode {c : Nat} (hc : c < 2 ^ 16) : decode .uint16 c = .fin false c 0 := by
  simpa [decode, Fmt.spec, Fmt.width] using hc

/-- R27, R30: a finite value that the format has the sign of is written with its sign, and at most as the end of the range. -/
theorem convert_int {f : Fmt} (h : f.spec = none) {neg : Bool} {m : Nat} (hs : ¬(m ≠ 0 ∧ neg = true ∧ f = .uint16))
    (mode : RMode) (rnd : W32) (e : Int) :
    convert f mode rnd (.fin neg m e) =
      if intTop f neg < roundUnits m 1 e 0 mode rnd then (intCode f.width neg (intTop f neg), .magnitude)
      else (intCode f.width neg (roundUnits m 1 e 0 mode rnd), .none) := by
  simp only [convert, h, if_neg hs]
  rfl

section Int
variable {f : Fmt} (h : f.spec = none) (h0 : f ≠ .e8m0)
include h h0

theorem int_cases : f = .uint16 ∨ f = .int8 ∨ f = .int4 ∨ f = .int32 := by
  cases f <;> simp_all [Fmt.spec]

/-- R24: a magnitude in the written range reads back with its sign. -/
theorem decode_intCode {neg : Bool} {k : Nat} (hk : k ≤ intTop f neg) :
    intCode f.width neg k < 2 ^ f.width ∧ decode f (intCode f.width neg k) = .fin (neg && k != 0) k 0 := by
  have hpow := two_pow_width f
  rcases int_cases h h0 with rfl | hs
  · cases neg with
    | false =>
      have hlt : k < 2 ^ 16 := Nat.lt_succ_of_le hk
      have hcode : intCode Fmt.uint16.width false k = k := Nat.mod_eq_of_lt hlt
      rw [hcode]
      exact ⟨hlt, uint16_decode hlt⟩
    | true =>
      obtain rfl : k = 0 := Nat.le_zero.1 hk
      exact ⟨by decide, uint16_decode (by decide)⟩
  · obtain ⟨hdec, htop⟩ := signed_spec hs
    have hlt : k < 2 ^ (f.width - 1) := by
      have := htop neg
      omega
    exact ⟨intCode_lt (by omega) neg, by rw [hdec, twos_intCode hlt, ofInt_sign]⟩

/-- R24: every code but the most negative one is that of a magnitude in the written range. -/
theorem exists_intCode {c : Nat} (hc : c < 2 ^ f.width)
    (hmin : f = .int8 ∨ f = .int4 ∨ f = .int32 → c ≠ 2 ^ (f.width - 1)) :
    ∃ neg k, (neg = true → k ≠ 0) ∧ k ≤ intTop f neg ∧ c = intCode f.width neg k := by
  rcases int_cases h h0 with rfl | hs
  · exact ⟨false, c, by simp, Nat.le_of_lt_succ hc, by simp [intCode, Nat.mod_eq_of_lt hc]⟩
  · obtain ⟨neg, k, hneg, hk, e⟩ := exists_intCode_of_ne hc (hmin hs)
    have htop := (signed_spec hs).2 neg
    exact ⟨neg, k, hneg, by omega, e⟩

/-- R27, R30, R31: a finite value is written as a magnitude of the written range, and a magnitude clamp gives its end. -/
theorem convert_int_cases (mode : RMode) (rnd : W32) (neg : Bool) (m : Nat) (e : Int) :
    ∃ b k cl, k ≤ intTop f b ∧ (cl = .magnitude → k = (intRange f).2) ∧
      convert f mode rnd (.fin neg m e) = (intCode f.width b k, cl) := by
  by_cases hs : m ≠ 0 ∧ neg = true ∧ f = .uint16
  · refine ⟨false, 0, .domain, Nat.zero_le _, by simp, ?_⟩
    simp only [convert, h, if_pos hs]
    rfl
  · rw [convert_int h hs]
    split
    · rename_i hgt
      refine ⟨neg, intTop f neg, .magnitude, (Nat.le_refl _), fun _ => ?_, rfl⟩
      rcases int_cases h h0 with rfl | hi
      · cases neg with
        | false => rfl
        | true =>
          obtain rfl : m = 0 := by simpa using hs
          simp [roundUnits_zero] at hgt
      · rcases hi with rfl | rfl | rfl <;> cases neg <;> rfl
    · exact ⟨neg, _, .none, Nat.le_of_not_lt ‹_›, by simp, rfl⟩

end Int

/-! ## O36 -/

theorem Val.eqv_self {v : Val} (hv : v.isFin = true) : Val.eqv v v = true := by
  cases v with
  | fin neg m e =>
    have habs : Val.absLt (.fin neg m e) (.fin neg m e) = false := by simp [Val.absLt, magLt]
    cases neg <;> by_cases hm : m = 0 <;> simp [Val.eqv, Val.lt, Val.isNan, Val.isZero, Val.isNeg, habs, hm]
  | inf => cases hv
  | nan => cases hv

theorem maxFinite_float {f : Fmt} {sp : FloatSpec} (h : f.spec = some sp) : maxFinite f = finOf sp false sp.maxCode := by
  have hmax := decode_signMag h (Nat.le_refl _) false
  rw [Bool.and_false] at hmax
  simpa [maxFinite, h, signMag] using hmax

theorem maxFinite_int {f : Fmt} (h : f.spec = none) : maxFinite f = .fin false (intRange f).2 0 := by
  simp only [maxFinite, h]

theorem representableIsUnchanged : Claims.representableIsUnchanged := by
  intro f mode rnd c h0 hc hfin hmin
  cases hs : f.spec with
  | some sp =>
    obtain ⟨neg, mag, hneg, hm, rfl⟩ := exists_signMag hs hc hfin
    have hsign : (sp.signed && neg) = neg := by cases neg <;> simp_all
    rw [decode_signMag hs hm, hsign, convert_finOf hs hneg hm]
  | none =>
    obtain ⟨neg, k, hneg, hk, rfl⟩ := exists_intCode hs h0 hc hmin
    have hsign : (neg && k != 0) = neg := by cases neg <;> simp_all
    have hdom : ¬(k ≠ 0 ∧ neg = true ∧ f = .uint16) := by
      rintro ⟨hk0, rfl, rfl⟩
      exact hk0 (Nat.le_zero.1 hk)
    rw [(decode_intCode hs h0 hk).2, hsign, convert_int hs hdom, roundUnits_exact, if_neg (Nat.not_lt.2 hk)]

theorem finiteStaysFinite : Claims.finiteStaysFinite := by
  intro f mode rnd neg m e h0
  cases hs : f.spec with
  | some sp =>
    obtain ⟨b, mag, cl, hm, hcl, hr⟩ := convert_fin_cases hs mode rnd neg m e
    rw [hr]
    refine ⟨?_, signMag_lt hs hm b, fun hmag => ?_⟩
    · rw [decode_signMag hs hm, finOf_isFin]
    · rw [decode_signMag hs hm, finOf_abs, hcl hmag, maxFinite_float hs]
      exact Val.eqv_self (finOf_isFin ..)
  | none =>
    obtain ⟨b, k, cl, hk, hcl, hr⟩ := convert_int_cases hs h0 mode rnd neg m e
    obtain ⟨hlt, hdec⟩ := decode_intCode hs h0 hk
    rw [hr]
    refine ⟨by rw [hdec]; rfl, hlt, fun hmag => ?_⟩
    rw [hdec, hcl hmag, maxFinite_int hs]
    exact Val.eqv_self (v := .fin false (intRange f).2 0) rfl

/-- Settles O36: a code of a finite value is a sign and a magnitude in the written range, which conversion finds again, and
conversion writes nothing else for a finite value. -/
theorem conversionResults : Obligations.ConversionResults := ⟨representableIsUnchanged, finiteStaysFinite⟩

end Sys2Proof.Num
end

section
/-! PROOF. What reaches an open collective (R122, R330, R331, R334, R335, R381): one equation for each case of a member's message,
of slot grants, timeouts and exports, and what voiding a collective writes and leaves as it was. -/
namespace Sys2Proof.Machine

open Sys2Proof.Claims

/-- Settling does nothing where nothing can run and no record waits. -/
theorem settle_calm {s : State} (h : calm s) : settle s = s := by
  obtain ⟨hstill, hwait⟩ := h
  exact settle_still hstill hwait

/-! ## The record of a collective -/

theorem State.findColl_key {s : State} {grp cseq : Nat} {c : Coll} (h : s.findColl grp cseq = some c) :
    c.grp = grp ∧ c.cseq = cseq := by
  simpa using List.find?_some h

/-- Once it is dropped, a collective is not found, whatever else the runner then writes. -/
theorem State.findColl_of_dropped {s t : State} {grp cseq : Nat} (h : t.runner.colls = (s.dropColl grp cseq).runner.colls) :
    t.findColl grp cseq = none := by
  unfold State.findColl
  rw [h, List.find?_eq_none]
  intro x hx
  have hkey : ¬(x.grp = grp ∧ x.cseq = cseq) := of_decide_eq_true (List.mem_filter.1 hx).2
  simpa using hkey

/-! ## Posting and voiding (R248, R335) -/

/-- Posting to the local moulds writes their queues alone. -/
theorem Coll.postAll_frame (c : Coll) (s : State) (v : W64) :
    (c.postAll s v).runner = s.runner ∧ (c.postAll s v).mem = s.mem ∧ (c.postAll s v).regs = s.regs := by
  unfold Coll.postAll
  refine List.foldlRecOn (motive := fun t : State => t.runner = s.runner ∧ t.mem = s.mem ∧ t.regs = s.regs)
    c.local_ _ ⟨rfl, rfl, rfl⟩ ?_
  intro t ht x _
  exact ht

/-- Ending a collective drops it and puts the posted value on record. -/
theorem Coll.finish_runner (c : Coll) (s : State) (v : W64) :
    (c.finish s v).runner = { s.runner with
      colls := (s.dropColl c.grp c.cseq).runner.colls
      finished := s.runner.finished ++ [(c.grp, c.cseq, c.heat, v)] } := by
  obtain ⟨hrunner, -, -⟩ := c.postAll_frame s v
  simp only [Coll.finish, State.dropColl, hrunner]

theorem Coll.finish_mem (c : Coll) (s : State) (v : W64) : (c.finish s v).mem = s.mem := by
  obtain ⟨-, hmem, -⟩ := c.postAll_frame s v
  exact hmem

theorem Coll.reg_finish (c : Coll) (s : State) (v : W64) (o : Nat) : (c.finish s v).reg o = s.reg o := by
  obtain ⟨-, -, hregs⟩ := c.postAll_frame s v
  exact congrArg (fun m => SMap.get (devReset o) m o) hregs

theorem Coll.void_runner (c : Coll) (s : State) (timeout : Bool) : (c.void s timeout).runner = (c.finish s 0).runner := by
  simp [Coll.void]

theorem Coll.void_mem (c : Coll) (s : State) (timeout : Bool) : (c.void s timeout).mem = s.mem := by
  simpa [Coll.void] using c.finish_mem s 0

/-- A timeout counts one violation and one timeout (R335). -/
theorem Coll.reg_void_timeout (c : Coll) (s : State) :
    (c.void s true).reg Reg.RUN_CNT_VIOL = s.reg Reg.RUN_CNT_VIOL + 1 ∧
    (c.void s true).reg Reg.RUN_CNT_CTO = s.reg Reg.RUN_CNT_CTO + 1 := by
  have hne : Reg.RUN_CNT_VIOL ≠ Reg.RUN_CNT_CTO := by decide
  simp [Coll.void, State.reg_count, Coll.reg_finish, b2n, hne, hne.symm]

theorem Coll.findColl_void {c : Coll} {s : State} {grp cseq : Nat} (hc : s.findColl grp cseq = some c) (timeout : Bool) :
    (c.void s timeout).findColl grp cseq = none := by
  obtain ⟨rfl, rfl⟩ := State.findColl_key hc
  refine State.findColl_of_dropped (s := s) ?_
  rw [Coll.void_runner, c.finish_runner s 0]

theorem Coll.mem_finished_void (c : Coll) (s : State) (timeout : Bool) :
    (c.grp, c.cseq, c.heat, 0) ∈ (c.void s timeout).runner.finished := by
  rw [Coll.void_runner, c.finish_runner s 0]
  simp

theorem Coll.findStep_void (c : Coll) (s : State) (timeout : Bool) (rseq : Nat) :
    (c.void s timeout).findStep rseq = s.findStep rseq := by
  simp only [State.findStep, Coll.void_runner, c.finish_runner s 0]

/-! ## A member's message (R331, R335, R381) -/

theorem addRank_again {α : Type} {l l' : List (Nat × α)} {r : Nat} {v : α} (h : addRank l r v = some l') (w : α) :
    addRank l' r w = none := by
  unfold addRank at h
  split at h
  · cases h
  · cases h
    simp [addRank]

/-- A message is taken once, and taking it changes only what the members have sent. -/
theorem Coll.take_once {c d : Coll} {i : Instr} (h : c.take i = some d) :
    d.take i = none ∧ d.kind = c.kind ∧ d.phase = c.phase ∧ d.local_ = c.local_ ∧ d.dd = c.dd ∧ d.grp = c.grp ∧
      d.cseq = c.cseq := by
  unfold Coll.take at h
  split at h
  case h_6 => cases h
  all_goals
    obtain ⟨l, hl, rfl⟩ := Option.map_eq_some_iff.1 h
    simp [Coll.take, addRank_again hl]

/-- The commands with a key are the members' messages. -/
theorem exec_collMessage {i : Instr} {k : Nat × Nat × Nat} (h : collKeyOf i = some k) (s : State) :
    exec i s = .next (settle (s.collMessage k.1 k.2.1 k.2.2 i)) := by
  unfold collKeyOf at h
  split at h
  case h_6 => cases h
  all_goals
    cases h
    rfl

section Message
variable {s : State} {grp cseq rank : Nat} {i : Instr}

theorem State.collMessage_ended (hn : s.findColl grp cseq = none) (hf : ∃ f ∈ s.runner.finished, f.1 = grp ∧ f.2.1 = cseq) :
    s.collMessage grp cseq rank i = s.count Reg.RUN_CNT_VIOL 1 := by
  have hany : (s.runner.finished.any fun f => f.1 == grp && f.2.1 == cseq) = true := by simpa using hf
  simp only [State.collMessage, hn, hany, if_true]

theorem State.collMessage_early (hn : s.findColl grp cseq = none)
    (hf : ∀ f ∈ s.runner.finished, ¬(f.1 = grp ∧ f.2.1 = cseq)) :
    s.collMessage grp cseq rank i = { s with runner := { s.runner with early := s.runner.early ++ [i] } } := by
  have hany : ¬(s.runner.finished.any fun f => f.1 == grp && f.2.1 == cseq) = true := by
    rw [List.any_eq_true]
    rintro ⟨f, hmem, hkey⟩
    exact hf f hmem (by simpa using hkey)
  simp only [State.collMessage, hn, if_neg hany]

variable {c : Coll}

theorem State.collMessage_refused (hc : s.findColl grp cseq = some c) (h : c.m s ≤ rank ∨ rank = c.rank s ∨ c.take i = none) :
    s.collMessage grp cseq rank i = s.count Reg.RUN_CNT_VIOL 1 := by
  simp only [State.collMessage, hc]
  split
  · rfl
  · next hrank =>
    have htake : c.take i = none := (or_assoc.2 h).resolve_left hrank
    simp only [htake]

theorem State.collMessage_taken {d : Coll} (hc : s.findColl grp cseq = some c) (hlt : rank < c.m s) (hne : rank ≠ c.rank s)
    (htake : c.take i = some d) : s.collMessage grp cseq rank i = (s.putColl d).advanceColl grp cseq := by
  have hrank : ¬(c.m s ≤ rank ∨ rank = c.rank s) := by omega
  simp only [State.collMessage, hc, if_neg hrank, htake]

end Message

theorem memberMessageResult : Claims.collectiveMessages := by
  refine ⟨fun i k s hk => ⟨?ended, ?early, fun c hc => ⟨?refused, ?taken⟩⟩, fun c d i h => Coll.take_once h⟩
  case ended =>
    intro hn hf hcalm
    rw [exec_collMessage hk, State.collMessage_ended hn hf, settle_calm hcalm]
  case early =>
    intro hn hf z hcalm
    rw [exec_collMessage hk, State.collMessage_early hn hf, settle_calm hcalm]
  case refused =>
    intro h hcalm
    rw [exec_collMessage hk, State.collMessage_refused hc h, settle_calm hcalm]
  case taken =>
    intro d hlt hne htake z hcalm
    rw [exec_collMessage hk, State.collMessage_taken hc hlt hne htake, settle_calm hcalm]

/-! ## Slots and timeouts (R330, R335) -/

theorem exec_collectiveSlotGrant (grp : Byte) (cseq : W32) (s : State) :
    exec (.collectiveSlotGrant grp cseq) s = .next (settle (s.grantColl grp.toNat cseq.toNat)) := rfl

theorem exec_collectiveTimeout (grp : Byte) (cseq : W32) (s : State) :
    exec (.collectiveTimeout grp cseq) s =
      .next (settle ((s.collTimeout grp.toNat cseq.toNat).routeTimeout grp.toNat cseq.toNat)) := rfl

/-- The writer's shape, slots and a place are there. -/
theorem Coll.fits_iff (c : Coll) (s : State) :
    c.fits s = true ↔
      (c.xsrc = true → c.kind.reduces = true → c.dd ≠ none) ∧ c.slots ≤ s.bufFree ∧ s.openColls < 64 := by
  simp only [Coll.fits, Bool.and_eq_true, Bool.or_eq_true, decide_eq_true_eq, Option.isSome_iff_ne_none]
  cases c.xsrc <;> cases c.kind.reduces <;> simp

section Ends
variable {s : State} {grp cseq : Nat} {c : Coll}

theorem State.grantColl_starts (hc : s.findColl grp cseq = some c) (hp : c.phase = .slots) (hf : c.fits s = true) :
    s.grantColl grp cseq = (s.putColl { c with phase := .headers }).advanceColl grp cseq := by
  simp only [State.grantColl, hc, if_pos (And.intro hp hf)]

theorem State.grantColl_waits (hc : s.findColl grp cseq = some c) (h : ¬(c.phase = .slots ∧ c.fits s = true)) :
    s.grantColl grp cseq = s := by
  simp only [State.grantColl, hc, if_neg h]

theorem State.collTimeout_passed (hc : s.findColl grp cseq = some c) (ht : s.ctoPassed c.since = true)
    (hp : c.phase = .slots ∨ c.phase = .headers) : s.collTimeout grp cseq = c.void s true := by
  simp only [State.collTimeout, hc, if_pos (And.intro ht hp)]

theorem State.collTimeout_early (hc : s.findColl grp cseq = some c) (ht : s.ctoPassed c.since = false) :
    s.collTimeout grp cseq = s := by
  simp [State.collTimeout, hc, ht]

theorem State.routeTimeout_none {rseq : Nat} (h : s.findStep rseq = none) : s.routeTimeout grp rseq = s := by
  simp only [State.routeTimeout, h]

end Ends

theorem collectiveSlotsAndTimeout : Claims.collectiveSlotsAndTimeout := by
  intro grp cseq s c hc
  refine ⟨?starts, ?waits, fun hstep => ⟨?passed, ?early⟩⟩
  case starts =>
    intro hp hshape hslots hopen z hcalm
    have hfits : c.fits s = true := (c.fits_iff s).2 ⟨hshape, hslots, hopen⟩
    rw [exec_collectiveSlotGrant, State.grantColl_starts hc hp hfits, settle_calm hcalm]
  case waits =>
    intro h hcalm
    have hwait : ¬(c.phase = .slots ∧ c.fits s = true) := by
      rw [c.fits_iff s]
      rintro ⟨hp, hshape, hslots, hopen⟩
      rcases h with h | h | h | h
      · exact h hp
      · exact h hshape
      · omega
      · omega
    rw [exec_collectiveSlotGrant, State.grantColl_waits hc hwait, settle_calm hcalm]
  case passed =>
    intro ht hp z
    obtain ⟨hviol, hcto⟩ := c.reg_void_timeout s
    refine ⟨Coll.findColl_void hc true, c.void_mem s true, c.mem_finished_void s true, hviol, hcto, fun hcalm => ?_⟩
    have hroute : (c.void s true).findStep cseq.toNat = none := (c.findStep_void s true _).trans hstep
    rw [exec_collectiveTimeout, State.collTimeout_passed hc ht hp, State.routeTimeout_none hroute, settle_calm hcalm]
  case early =>
    intro ht hcalm
    rw [exec_collectiveTimeout, State.collTimeout_early hc ht, State.routeTimeout_none hstep, settle_calm hcalm]

/-! ## Exports (R122, R334) -/

theorem exec_exportArrival (g : BitVec 8) (s : State) : exec (.exportArrival g) s = .next (settle (s.exportArrival g.toNat)) := rfl

/-- The state once the first of mould g's exports has left the runner's list. -/
def State.exportTaken (s : State) (g : Nat) : State :=
  { s with runner := { s.runner with exports := dropFirst (fun y => y.g == g) s.runner.exports } }

section Export
variable {s : State} {g : Nat} {x : ExportMsg} (hx : s.runner.exports.find? (fun y => y.g == g) = some x)
include hx

theorem State.exportArrival_noColl (hc : s.findColl x.grp x.cseq = none) :
    s.exportArrival g = (s.exportTaken g).count Reg.RUN_CNT_VIOL 1 := by
  simp only [State.exportArrival, hx, hc]
  rfl

variable {c : Coll} (hc : s.findColl x.grp x.cseq = some c)
include hc

theorem State.exportArrival_waits (h : c.phase = .slots ∨ c.dd = none ∨ s.bufFree < x.need) : s.exportArrival g = s := by
  simp only [State.exportArrival, hx, hc, if_pos h]

theorem State.exportArrival_room (hp : c.phase ≠ .slots) (hdd : c.dd ≠ none) (hroom : x.need ≤ s.bufFree) :
    s.exportArrival g =
      let r := c.takeExport (s.exportTaken g) x
      if r.2 then ((s.exportTaken g).putColl r.1).advanceColl x.grp x.cseq
      else (s.exportTaken g).count Reg.RUN_CNT_VIOL 1 := by
  have h : ¬(c.phase = .slots ∨ c.dd = none ∨ s.bufFree < x.need) := by simp [hp, hdd, hroom]
  simp only [State.exportArrival, hx, hc, if_neg h]
  rfl

end Export

theorem exportArrivalResult : Claims.exportArrivalResult := by
  intro g s x hx
  refine ⟨?noColl, fun c hc => ⟨?waits, ?taken⟩⟩
  case noColl =>
    intro hc hcalm
    rw [exec_exportArrival, State.exportArrival_noColl hx hc]
    exact congrArg _ (settle_calm hcalm)
  case waits =>
    intro h hcalm
    rw [exec_exportArrival, State.exportArrival_waits hx hc h, settle_calm hcalm]
  case taken =>
    intro hp hdd hroom r z hcalm
    rw [exec_exportArrival, State.exportArrival_room hx hc hp hdd hroom]
    exact congrArg _ (settle_calm hcalm)

/-! ## O46 -/

/-- Settles O46: messages by the collective's key, slots and timeouts by its phase, and exports by the collective that they name. -/
theorem collectiveMessages : Obligations.CollectiveMessages :=
  ⟨memberMessageResult, collectiveSlotsAndTimeout, exportArrivalResult⟩

end Sys2Proof.Machine
end

section
/-! PROOF. What a prune selects (R139, R141): the exact order of magnitudes, the order of keys that it gives with the positions, and
the insertion sort that selection takes its first k from. -/
namespace Sys2Proof.Num

/-! ## Magnitudes -/

/-- The comparison of finite magnitudes is exact: it may be made at any common exponent. -/
theorem magLt_scaled {e₁ e₂ e : Int} (h₁ : e ≤ e₁) (h₂ : e ≤ e₂) (m₁ m₂ : Nat) :
    magLt m₁ e₁ m₂ e₂ = true ↔ m₁ * 2 ^ (e₁ - e).toNat < m₂ * 2 ^ (e₂ - e).toNat := by
  have split₁ : (e₁ - e).toNat = (e₁ - min e₁ e₂).toNat + (min e₁ e₂ - e).toNat := by omega
  have split₂ : (e₂ - e).toNat = (e₂ - min e₁ e₂).toNat + (min e₁ e₂ - e).toNat := by omega
  rw [split₁, split₂, Nat.pow_add, Nat.pow_add, ← Nat.mul_assoc, ← Nat.mul_assoc, Nat.mul_lt_mul_right (Nat.two_pow_pos _)]
  exact decide_eq_true_iff

theorem magLt_scaled_false {e₁ e₂ e : Int} (h₁ : e ≤ e₁) (h₂ : e ≤ e₂) (m₁ m₂ : Nat) :
    magLt m₁ e₁ m₂ e₂ = false ↔ m₂ * 2 ^ (e₂ - e).toNat ≤ m₁ * 2 ^ (e₁ - e).toNat := by
  rw [← Bool.not_eq_true, magLt_scaled h₁ h₂, Nat.not_lt]

theorem magLt_asymm {m₁ m₂ : Nat} {e₁ e₂ : Int} (h : magLt m₁ e₁ m₂ e₂ = true) : magLt m₂ e₂ m₁ e₁ = false := by
  rw [magLt_scaled (Int.min_le_left e₁ e₂) (Int.min_le_right e₁ e₂)] at h
  rw [magLt_scaled_false (Int.min_le_right e₁ e₂) (Int.min_le_left e₁ e₂)]
  exact Nat.le_of_lt h

theorem magLt_false_trans {a b c : Nat} {ea eb ec : Int} (hba : magLt b eb a ea = false) (hcb : magLt c ec b eb = false) :
    magLt c ec a ea = false := by
  have hea : min ea (min eb ec) ≤ ea := by omega
  have heb : min ea (min eb ec) ≤ eb := by omega
  have hec : min ea (min eb ec) ≤ ec := by omega
  rw [magLt_scaled_false heb hea] at hba
  rw [magLt_scaled_false hec heb] at hcb
  rw [magLt_scaled_false hec hea]
  exact Nat.le_trans hba hcb

theorem Val.absLt_asymm {a b : Val} (h : Val.absLt a b = true) : Val.absLt b a = false := by
  cases a with
  | fin s m e =>
    cases b with
    | fin t n f => exact magLt_asymm h
    | inf | nan => rfl
  | inf | nan => cases h

/-- Not above, through a value that is not NaN (R139). -/
theorem Val.absLt_false_trans {a b c : Val} (hb : b.isNan = false) (hba : Val.absLt b a = false) (hcb : Val.absLt c b = false) :
    Val.absLt c a = false := by
  cases c with
  | inf | nan => rfl
  | fin =>
    cases b with
    | nan => cases hb
    | inf => cases hcb
    | fin =>
      cases a with
      | nan => rfl
      | inf => cases hba
      | fin => exact magLt_false_trans hba hcb

end Sys2Proof.Num

namespace Sys2Proof.Machine

open Sys2Proof.Num

theorem magLess_eq_absLt (a b : Val) : magLess a b = Val.absLt a b := by
  cases a <;> cases b <;> rfl

/-! ## The order of keys -/

/-- Key a comes no later than key b in a selection of the smallest: by magnitude, then by position (R139). -/
def KeyLe (a b : Key) : Prop := Val.absLt b.2 a.2 = false ∧ (Val.absLt a.2 b.2 = true ∨ a.1 ≤ b.1)

theorem KeyLe.trans {a b c : Key} (ha : a.2.isNan = false) (hb : b.2.isNan = false) (hc : c.2.isNan = false)
    (hab : KeyLe a b) (hbc : KeyLe b c) : KeyLe a c := by
  obtain ⟨hba, hposab⟩ := hab
  obtain ⟨hcb, hposbc⟩ := hbc
  refine ⟨Val.absLt_false_trans hb hba hcb, ?_⟩
  cases hac : Val.absLt a.2 c.2 with
  | true => exact .inl rfl
  | false =>
    have hbceq : Val.absLt b.2 c.2 = false := Val.absLt_false_trans ha hac hba
    have habeq : Val.absLt a.2 b.2 = false := Val.absLt_false_trans hc hcb hac
    simp only [habeq, hbceq, Bool.false_eq_true, false_or] at hposab hposbc
    exact .inr (Nat.le_trans hposab hposbc)

/-- Insertion puts a key where it comes no later than the next one, or goes on past a key that does. -/
theorem insSmall_cons (k q : Key) (t : List Key) :
    (KeyLe k q ∧ insSmall k (q :: t) = k :: q :: t) ∨ (KeyLe q k ∧ insSmall k (q :: t) = q :: insSmall k t) := by
  cases hkq : Val.absLt k.2 q.2 with
  | true => exact .inl ⟨⟨Val.absLt_asymm hkq, .inl hkq⟩, by simp [insSmall, hkq]⟩
  | false =>
    cases hqk : Val.absLt q.2 k.2 with
    | true => exact .inr ⟨⟨hkq, .inl hqk⟩, by simp [insSmall, hkq, hqk]⟩
    | false =>
      by_cases hpos : k.1 < q.1
      · exact .inl ⟨⟨hqk, .inr (Nat.le_of_lt hpos)⟩, by simp [insSmall, hqk, hpos]⟩
      · exact .inr ⟨⟨hkq, .inr (Nat.not_lt.1 hpos)⟩, by simp [insSmall, hkq, hpos]⟩

theorem insSmall_perm (k : Key) (l : List Key) : (insSmall k l).Perm (k :: l) := by
  induction l with
  | nil => exact .refl _
  | cons q t ih =>
    rcases insSmall_cons k q t with ⟨-, e⟩ | ⟨-, e⟩ <;> rw [e]
    exact (ih.cons q).trans (.swap k q t)

theorem insSmall_ascending {k : Key} {l : List Key} (hk : k.2.isNan = false) (hl : ∀ c ∈ l, c.2.isNan = false)
    (h : l.Pairwise KeyLe) : (insSmall k l).Pairwise KeyLe := by
  induction l with
  | nil => exact List.pairwise_singleton _ _
  | cons q t ih =>
    obtain ⟨hqt, ht⟩ := List.pairwise_cons.1 h
    obtain ⟨hq, hn⟩ := List.forall_mem_cons.1 hl
    rcases insSmall_cons k q t with ⟨hkq, e⟩ | ⟨hqk, e⟩ <;> rw [e]
    · exact List.pairwise_cons.2 ⟨List.forall_mem_cons.2 ⟨hkq, fun c hc => hkq.trans hk hq (hn c hc) (hqt c hc)⟩, h⟩
    · refine List.pairwise_cons.2 ⟨fun c hc => ?_, ih hn ht⟩
      rcases List.mem_cons.1 ((insSmall_perm k t).mem_iff.1 hc) with rfl | hc
      · exact hqk
      · exact hqt c hc

/-- The candidates of a group, smallest first, as a prune takes them. -/
def sortSmall (l : List Key) : List Key := l.reverse.foldr insSmall []

theorem foldr_insSmall_perm (l : List Key) : (l.foldr insSmall []).Perm l := by
  induction l with
  | nil => exact .refl _
  | cons c l ih => exact (insSmall_perm c _).trans (ih.cons c)

theorem sortSmall_perm (l : List Key) : (sortSmall l).Perm l := (foldr_insSmall_perm l.reverse).trans (List.reverse_perm l)

theorem foldr_insSmall_ascending {l : List Key} (hl : ∀ c ∈ l, c.2.isNan = false) : (l.foldr insSmall []).Pairwise KeyLe := by
  induction l with
  | nil => exact .nil
  | cons c l ih =>
    obtain ⟨hc, hl⟩ := List.forall_mem_cons.1 hl
    exact insSmall_ascending hc (fun x hx => hl x ((foldr_insSmall_perm l).mem_iff.1 hx)) (ih hl)

theorem sortSmall_ascending {l : List Key} (hl : ∀ c ∈ l, c.2.isNan = false) : (sortSmall l).Pairwise KeyLe :=
  foldr_insSmall_ascending fun c hc => hl c (List.mem_reverse.1 hc)

/-! ## The two scopes -/

theorem pruneSelect_tile (cands : List Key) (k : Nat) (t : Val) :
    pruneSelect cands 1 k t = ((sortSmall cands).take k).map (·.1) := by
  rw [sortSmall, List.foldr_reverse]
  rfl

theorem mem_pruneSelect_threshold {cands : List Key} {k : Nat} {t : Val} {p : Nat} :
    p ∈ pruneSelect cands 2 k t ↔ ∃ x, (p, x) ∈ cands ∧ t.isNan = false ∧ magLess x t = true := by
  unfold pruneSelect
  rw [if_pos rfl]
  cases t.isNan <;> simp

theorem length_pruneSelect_tile (cands : List Key) (k : Nat) (t : Val) :
    (pruneSelect cands 1 k t).length = min k cands.length := by
  rw [pruneSelect_tile, List.length_map, List.length_take, (sortSmall_perm cands).length_eq]

theorem nodup_pruneSelect_tile {cands : List Key} (h : (cands.map (·.1)).Nodup) (k : Nat) (t : Val) :
    (pruneSelect cands 1 k t).Nodup := by
  have hs : ((sortSmall cands).map (·.1)).Nodup := ((sortSmall_perm cands).map _).nodup_iff.2 h
  rw [pruneSelect_tile]
  exact hs.sublist ((List.take_sublist k _).map _)

/-- A selected candidate comes no later than one that is left out. -/
theorem keyLe_of_selected {cands : List Key} (hn : ∀ c ∈ cands, c.2.isNan = false) {k : Nat} {t : Val} {c y : Key}
    (hc : c ∈ (sortSmall cands).take k) (hy : y ∈ cands) (hout : y.1 ∉ pruneSelect cands 1 k t) : KeyLe c y := by
  rw [pruneSelect_tile] at hout
  have hydrop : y ∈ (sortSmall cands).drop k := by
    have hmem := (sortSmall_perm cands).mem_iff.2 hy
    rw [← List.take_append_drop k (sortSmall cands), List.mem_append] at hmem
    exact hmem.resolve_left fun h => hout (List.mem_map_of_mem h)
  have hs := sortSmall_ascending hn
  rw [← List.take_append_drop k (sortSmall cands), List.pairwise_append] at hs
  obtain ⟨-, -, hle⟩ := hs
  exact hle c hc y hydrop

/-- Settles O31: the selection is the first k of the candidates sorted by magnitude and position. -/
theorem pruneSelection : Obligations.PruneSelection := by
  intro cands k t hnd hn
  refine ⟨length_pruneSelect_tile cands k t, nodup_pruneSelect_tile hnd k t, ?_, fun p => mem_pruneSelect_threshold⟩
  intro p hp
  obtain ⟨⟨p, x⟩, hc, rfl⟩ := List.mem_map.1 (pruneSelect_tile cands k t ▸ hp)
  refine ⟨x, (sortSmall_perm cands).mem_iff.1 (List.mem_of_mem_take hc), fun y hy hout => ?_⟩
  obtain ⟨hge, hpos⟩ := keyLe_of_selected hn hc hy hout
  have hne : p ≠ y.1 := fun e => hout (e ▸ hp)
  rw [magLess_eq_absLt, magLess_eq_absLt]
  exact hpos.imp_right fun hle => ⟨hge, Nat.lt_of_le_of_ne hle hne⟩

end Sys2Proof.Machine
end

section
/-! PROOF. The scan of a grow (R142): what one visit can do, and what every scan keeps. -/
namespace Sys2Proof.Machine

/-- The group of a position in which a scan counts what it takes: its row, or the one group of a tile. -/
def growGroup (scope p : Nat) : Nat := if scope = 0 then p / 128 else 0

/-- A visit passes on with the same positions and counts, or accepts the position below all three limits. -/
theorem growVisit_cases (scope k nmax cap : Nat) (a : GrowScan) (p : Nat) :
    (∃ n, growVisit scope (some k) nmax cap a p = { a with passed := n }) ∨
    (SMap.get 0 a.taken (growGroup scope p) ≠ k ∧ a.nnz + 1 ≤ nmax ∧ (cap ≠ 0 → SMap.get 0 a.occ (p / 8) + 1 ≤ cap) ∧
      growVisit scope (some k) nmax cap a p =
        { nnz := a.nnz + 1,
          taken := SMap.set 0 a.taken (growGroup scope p) (SMap.get 0 a.taken (growGroup scope p) + 1),
          occ := SMap.set 0 a.occ (p / 8) (SMap.get 0 a.occ (p / 8) + 1), passed := a.passed, out := a.out ++ [p] }) := by
  have hgrp : (if scope = 0 then p / 128 else 0) = growGroup scope p := rfl
  simp only [growVisit, hgrp]
  split
  · exact .inl ⟨a.passed, rfl⟩
  next hk =>
    split
    · exact .inl ⟨a.passed + 1, rfl⟩
    next hn =>
      split
      · exact .inl ⟨a.passed + 1, rfl⟩
      next hc => exact .inr ⟨fun e => hk (congrArg some e.symm), Nat.not_lt.1 hn, fun h => Nat.not_lt.1 fun hlt => hc ⟨h, hlt⟩, rfl⟩

theorem length_filter_concat (f : Nat → Nat) (l : List Nat) (p i : Nat) :
    ((l ++ [p]).filter fun q => f q == i).length = (l.filter fun q => f q == i).length + if i = f p then 1 else 0 := by
  by_cases h : i = f p
  · simp [List.filter_append, h]
  · simp [List.filter_append, h, Ne.symm h]

theorem SMap.get_set_succ (m : SMap Nat) (k i : Nat) :
    SMap.get 0 (SMap.set 0 m k (SMap.get 0 m k + 1)) i = SMap.get 0 m i + if i = k then 1 else 0 := by
  rw [SMap.get_set]
  split
  next h => rw [h]
  · rfl

/-- Scan r began at a with nothing taken: its counts are those of the positions accepted, and lie within the limits. -/
structure GrowScan.Within (scope k nmax cap : Nat) (a r : GrowScan) : Prop where
  nnz_eq : r.nnz = a.nnz + r.out.length
  nnz_le : r.out ≠ [] → r.nnz ≤ nmax
  taken_eq : ∀ i, SMap.get 0 r.taken i = (r.out.filter fun p => growGroup scope p == i).length
  taken_le : ∀ i, SMap.get 0 r.taken i ≤ k
  occ_eq : ∀ i, SMap.get 0 r.occ i = SMap.get 0 a.occ i + (r.out.filter fun p => p / 8 == i).length
  occ_le : cap ≠ 0 → ∀ i, (r.out.filter fun p => p / 8 == i) ≠ [] → SMap.get 0 r.occ i ≤ cap

namespace GrowScan

variable {scope k nmax cap : Nat} {a r : GrowScan}

theorem within_start (ho : a.out = []) (ht : a.taken = []) : Within scope k nmax cap a a where
  nnz_eq := by simp [ho]
  nnz_le := fun h => absurd ho h
  taken_eq := by simp [ho, ht, SMap.get]
  taken_le := by simp [ht, SMap.get]
  occ_eq := by simp [ho]
  occ_le := by simp [ho]

theorem Within.visit (h : Within scope k nmax cap a r) (p : Nat) :
    Within scope k nmax cap a (growVisit scope (some k) nmax cap r p) := by
  rcases growVisit_cases scope k nmax cap r p with ⟨n, e⟩ | ⟨htaken, hnnz, hocc, e⟩ <;> rw [e]
  · exact ⟨h.nnz_eq, h.nnz_le, h.taken_eq, h.taken_le, h.occ_eq, h.occ_le⟩
  · refine ⟨?_, fun _ => hnnz, fun i => ?_, fun i => ?_, fun i => ?_, fun hcap i hne => ?_⟩
    · simp [h.nnz_eq, Nat.add_assoc]
    · rw [SMap.get_set_succ, length_filter_concat, h.taken_eq]
    · rw [SMap.get_set_succ]
      split
      next hi => exact hi ▸ Nat.lt_of_le_of_ne (h.taken_le _) htaken
      · exact h.taken_le i
    · rw [SMap.get_set_succ, length_filter_concat, h.occ_eq, Nat.add_assoc]
    · rw [SMap.get_set_succ]
      split
      next hi => exact hi ▸ hocc hcap
      next hi =>
        refine h.occ_le hcap i fun hnil => hne ?_
        rw [← List.length_eq_zero_iff, length_filter_concat, hnil, if_neg hi]
        rfl

theorem Within.scan (ps : List Nat) : ∀ {r : GrowScan}, Within scope k nmax cap a r →
    Within scope k nmax cap a (ps.foldl (growVisit scope (some k) nmax cap) r) := by
  induction ps with
  | nil => exact id
  | cons p ps ih => exact fun h => ih (h.visit p)

/-- The positions accepted come from the candidates, in their order. -/
theorem out_scan_sublist (ps : List Nat) : ∀ r : GrowScan,
    (ps.foldl (growVisit scope (some k) nmax cap) r).out.Sublist (r.out ++ ps) := by
  induction ps with
  | nil => simp
  | cons p ps ih =>
    intro r
    refine (ih _).trans ?_
    rcases growVisit_cases scope k nmax cap r p with ⟨n, e⟩ | ⟨-, -, -, e⟩ <;> rw [e]
    · exact List.Sublist.append_left (List.sublist_cons_self p ps) r.out
    · simp

end GrowScan

/-- Settles O32: a scan from a start with nothing taken keeps `GrowScan.Within`. -/
theorem growRespectsLimits : Obligations.GrowRespectsLimits := by
  intro scope k nmax cap a ps ho ht r
  have h : GrowScan.Within scope k nmax cap a r := (GrowScan.within_start ho ht).scan ps
  refine ⟨h.nnz_eq, h.nnz_le, ?_, fun i => h.taken_eq i ▸ h.taken_le i, fun i hcap hne => h.occ_eq i ▸ h.occ_le hcap i hne⟩
  simpa [ho] using GrowScan.out_scan_sublist (scope := scope) (k := k) (nmax := nmax) (cap := cap) ps a

end Sys2Proof.Machine
end

section
/-! PROOF. An instruction that enters an empty queue alone (R17, R172 to R174): settling runs its head once and ends there. -/
namespace Sys2Proof.Machine

open Sys2Proof.Claims

/-! ## Settling where one site can run -/

/-- The sites of a pass in their order: the queues of every mould, then the risers. -/
def State.sites (s : State) : List Site :=
  ((s.moulds.map (·.1)).flatMap fun g => (List.range 6).map (Site.head g)) ++ (List.range 8).map Site.riser

/-- A site's turn in a pass, which notes whether anything has run. -/
def Site.turn (a : State × Bool) (x : Site) : State × Bool :=
  match x.run a.1 with
  | some t => (t, true)
  | none => a

theorem Site.turn_some {a : State × Bool} {x : Site} {t : State} (h : x.run a.1 = some t) : Site.turn a x = (t, true) := by
  simp only [Site.turn, h]

theorem Site.turn_none {a : State × Bool} {x : Site} (h : x.run a.1 = none) : Site.turn a x = a := by
  simp only [Site.turn, h]

theorem Site.run_head {q : Nat} (hq : q < 6) (s : State) (g : Nat) : Site.run s (.head g q) = runHead s g q := if_pos hq

theorem Site.run_riser {r : Nat} (hr : r < 8) (s : State) : Site.run s (.riser r) = runRiserQueue s r := if_pos hr

/-- A pass gives every site its turn. -/
theorem settlePass_eq_foldl (s : State) : settlePass s = s.sites.foldl Site.turn (s, false) := by
  rw [State.sites, List.foldl_append, List.foldl_flatMap, List.foldl_map]
  refine (foldl_congr fun a r hr => ?riser).trans (congrArg (fun a => List.foldl _ a _) (foldl_congr fun a g _ => ?mould))
  case riser =>
    have hrun := Site.run_riser (List.mem_range.1 hr) a.1
    cases hc : runRiserQueue a.1 r with
    | none => exact (Site.turn_none (hrun.trans hc)).symm
    | some t => exact (Site.turn_some (hrun.trans hc)).symm
  case mould =>
    rw [List.foldl_map]
    refine foldl_congr fun a q hq => ?_
    have hrun := Site.run_head (List.mem_range.1 hq) a.1 g
    cases hc : runHead a.1 g q with
    | none => exact (Site.turn_none (hrun.trans hc)).symm
    | some t => exact (Site.turn_some (hrun.trans hc)).symm

/-- A mould that the state does not list is at reset, with empty queues. -/
theorem mem_moulds_of_runHead {s t : State} {g q : Nat} (h : runHead s g q = some t) : g ∈ s.moulds.map (·.1) := by
  refine Classical.byContradiction fun hg => ?_
  have hreset : s.mould g = Mould.reset :=
    SMap.get_key Mould.reset s.moulds g (· = Mould.reset) rfl fun e he hk => absurd (List.mem_map.2 ⟨e, he, hk⟩) hg
  have hqueue : Mould.reset.queue q = [] := rfl
  simp [runHead, hreset, hqueue] at h

/-- A site where something runs has its turn. -/
theorem Site.mem_sites_of_run {s t : State} {x : Site} (h : x.run s = some t) : x ∈ s.sites := by
  cases x with
  | head g q =>
    by_cases hq : q < 6
    · have hg := mem_moulds_of_runHead (Site.run_head hq s g ▸ h)
      exact List.mem_append_left _ (List.mem_flatMap.2 ⟨g, hg, List.mem_map_of_mem (List.mem_range.2 hq)⟩)
    · exact absurd h (by simp [Site.run, hq])
  | riser r =>
    by_cases hr : r < 8
    · exact List.mem_append_right _ (List.mem_map_of_mem (List.mem_range.2 hr))
    · exact absurd h (by simp [Site.run, hr])

/-- A fold that only x moves on from u, to a state that stays as it is. -/
theorem foldl_reaches {α β : Type} {f : β → α → β} {u t : β} {x : α} (hx : f u x = t) (ht : ∀ a, f t a = t) {l : List α}
    (hu : ∀ a ≠ x, f u a = u) (hmem : x ∈ l) : l.foldl f u = t := by
  induction l with
  | nil => cases hmem
  | cons a l ih =>
    by_cases ha : a = x
    · rw [List.foldl_cons, ha, hx]
      exact foldl_fixed f t l fun b _ => ht b
    · rw [List.foldl_cons, hu a ha]
      exact ih ((List.mem_cons.1 hmem).resolve_left (Ne.symm ha))

theorem settlePass_site {u t : State} {x : Site} (hothers : ∀ y ≠ x, y.run u = none) (hrun : x.run u = some t) (ht : Still t) :
    settlePass u = (t, true) := by
  rw [settlePass_eq_foldl]
  exact foldl_reaches (Site.turn_some hrun) (fun y => Site.turn_none (ht.1 y)) (fun y hy => Site.turn_none (hothers y hy))
    (Site.mem_sites_of_run hrun)

/-- Settling runs the one site that can run, where nothing can run after it. -/
theorem settle_site {u t : State} {x : Site} (hwait : u.heats.endWait = []) (hothers : ∀ y ≠ x, y.run u = none)
    (hrun : x.run u = some t) (ht : Still t) : settle u = t := by
  have hflush : u.flushEnds = u := by simp [State.flushEnds, hwait]
  have hn : settleN (4 * u.queued + 4) u = t := by
    rw [settleN]
    simp [settlePass_site hothers hrun ht, settleN_still ht]
  unfold settle
  simp only [hflush, hn]
  exact foldl_fixed _ t _ fun g _ => ht.2 g

/-! ## Entering an empty queue -/

/-- A collective, which reaches the runner as it enters its queue. -/
def Work.isColl : Work → Bool
  | .coll _ _ _ _ _ _ _ _ => true
  | _ => false

theorem Work.isColl_withSer_atIssue (w : Work) (s : State) (g n : Nat) : ((w.atIssue s g).withSer n).isColl = w.isColl := by
  cases w <;> rfl

/-- Work other than a collective's joins its queue with the next serial number. -/
theorem State.queue_enqueue {s : State} {w : Work} (g q : Nat) (hw : w.isColl = false) :
    ((s.enqueue g q w).mould g).queue q = (s.mould g).queue q ++
      [.work ((s.mould g).ser + 1) ((w.atIssue s g).withSer (if (w.sk (s.mould g)).isSome then (s.mould g).ser + 1 else 0))] := by
  unfold State.enqueue
  dsimp only
  split
  next hc =>
    have hcoll := congrArg Work.isColl hc
    rw [Work.isColl_withSer_atIssue, hw] at hcoll
    cases hcoll
  · rw [State.mould_updMould_same, Mould.queue_setQueue_same]
    cases w.sk (s.mould g) <;> simp [Mould.queue]

@[simp] theorem past_ser (h : Hdr) (s : State) : (past h s).ser = (s.mould h.m.toNat).ser := by simp [past]

/-- What stands in the queue that work enters alone. -/
theorem queue_entered {h : Hdr} {s : State} {q : Nat} {w : State → Work}
    (hw : (w (s.setMould h.m.toNat (past h s))).isColl = false)
    (hempty : (s.mould h.m.toNat).queue q = []) :
    ((entered h s q w).mould h.m.toNat).queue q = [.work ((s.mould h.m.toNat).ser + 1) (atHead h s w)] := by
  unfold entered
  dsimp only
  rw [State.queue_enqueue _ _ hw, State.mould_setMould_same, past_queue, hempty, past_ser]
  rfl

/-- In a heat work enters an empty queue and settling follows. -/
theorem issueWork_entered {h : Hdr} {s : State} {q : Nat} {w : State → Work} (hr : InHeat h s)
    (hempty : (s.mould h.m.toNat).queue q = []) (i : Instr) {f : State → Work}
    (hf : f (s.setMould h.m.toNat (past h s)) = w (s.setMould h.m.toNat (past h s))) :
    issueWork h i s q f = settle (entered h s q w) := by
  have hroom : ¬qDepth q ≤ ([] : List QEnt).length := by
    unfold qDepth
    split <;> simp
  unfold issueWork
  rw [pairHeat_ready hr, hf, State.issueEnt, State.mould_setMould_same, past_queue, hempty, if_neg hroom]
  rfl

/-- An instruction alone: its head runs, and the module rests. -/
theorem issueWork_alone {h : Hdr} {s t : State} {q : Nat} {w : State → Work} (ha : alone h q w s t) (hq : q < 6) (i : Instr)
    {f : State → Work} (hf : f (s.setMould h.m.toNat (past h s)) = w (s.setMould h.m.toNat (past h s)))
    (hrun : runHead (entered h s q w) h.m.toNat q = some t) : issueWork h i s q f = t := by
  obtain ⟨hheat, hempty, hwait, hothers, -, ht⟩ := ha
  rw [issueWork_entered hheat hempty i hf]
  exact settle_site hwait hothers (by rw [Site.run_head hq, hrun]) ht

/-! ## Heads that nothing holds -/

theorem runHead_matrix {s : State} {g n : Nat} {w : Work} {l : List QEnt} (hw : (s.mould g).queue 0 = .work n w :: l)
    (hu : unheld s g 0 n w) : runHead s g 0 = runMatrixHead s g n w := by
  obtain ⟨hstop, hclash, herr, heng, -⟩ := hu
  simp [runHead, hw, hstop, hclash, herr, heng rfl]

theorem runHead_riddle {s : State} {g n : Nat} {w : Work} {l : List QEnt} (hw : (s.mould g).queue 2 = .work n w :: l)
    (hu : unheld s g 2 n w) : runHead s g 2 = runRiddleHead s g w := by
  obtain ⟨hstop, hclash, herr, -, -⟩ := hu
  simp [runHead, hw, hstop, hclash, herr]

end Sys2Proof.Machine
end

section
/-! PROOF. `PRUNE`, `GROW` and `COMPACT` complete (R138, R140 to R144, R149). -/
namespace Sys2Proof.Machine

open Sys2Proof.Claims

@[simp] theorem hdrAlso_m (h : Hdr) (b : Bool) : (hdrAlso h b).m = h.m := rfl

@[simp] theorem State.modeBit_setMould (s : State) (g : Nat) (m : Mould) (b : Nat) : (s.setMould g m).modeBit b = s.modeBit b := rfl

/-! ## Alone in the riddle queue and in the matrix queue -/

theorem runHead_alone_riddle {h : Hdr} {s t : State} {w : State → Work} (ha : alone h 2 w s t)
    (hw : (w (s.setMould h.m.toNat (past h s))).isColl = false) :
    runHead (entered h s 2 w) h.m.toNat 2 = runRiddleHead (entered h s 2 w) h.m.toNat (atHead h s w) := by
  obtain ⟨-, hempty, -, -, hu, -⟩ := ha
  exact runHead_riddle (queue_entered hw hempty) hu

theorem runHead_alone_matrix {h : Hdr} {s t : State} {w : State → Work} (ha : alone h 0 w s t)
    (hw : (w (s.setMould h.m.toNat (past h s))).isColl = false) :
    runHead (entered h s 0 w) h.m.toNat 0 =
      runMatrixHead (entered h s 0 w) h.m.toNat ((s.mould h.m.toNat).ser + 1) (atHead h s w) := by
  obtain ⟨-, hempty, -, -, hu, -⟩ := ha
  exact runHead_matrix (queue_entered hw hempty) hu

theorem patternInstructionsComplete : Claims.patternInstructionsComplete := by
  intro h o s d x n
  refine ⟨?prune, ?grow, ?compact⟩
  case prune =>
    intro w r ha
    refine congrArg Host.Outcome.next (issueWork_alone ha (by decide) _ ?_ ?_)
    · simp [w, d, x]
    · rw [runHead_alone_riddle ha rfl]
      rfl
  case grow =>
    intro h' u ok w r hr ha
    refine congrArg Host.Outcome.next (issueWork_alone ha (by decide) _ ?_ ?_)
    · simp [w, d, x, h']
    · rw [runHead_alone_riddle ha rfl]
      exact congrArg (Option.map fun r => r.1.retireHead h.m.toNat 2 n r.2) hr
  case compact =>
    intro u ok w v p hv ha
    refine congrArg Host.Outcome.next (issueWork_alone ha (by decide) _ ?_ ?_)
    · simp [w, d, x]
    · rw [runHead_alone_matrix ha rfl]
      change runMatrixHead _ _ _ (.compact o (d o.dw) (x o.ra) (x o.rb) ok n 0) = _
      simp [runMatrixHead, hv]

theorem Mould.getEdit_setEdit (m : Mould) (e j : Nat) (v : Option Edit) :
    (m.setEdit e v).getEdit j = if j = e then v else m.getEdit j := SMap.get_set _ _ _ _ _

/-- R138: a `COMPACT` of an empty slot changes nothing. -/
theorem runCompact_empty {s : State} {g : Nat} {o : PatOps} (hx : (s.mould g).getEdit o.slot.toNat = none) (w : W512)
    (tile pcb : W64) (ok : Bool) (phase : Nat) : runCompact s g o w tile pcb ok phase = .done s allOnes := by
  simp only [runCompact, hx]

/-- R149: with `DISCARD` a `COMPACT` empties its slot. -/
theorem runCompact_discard {s : State} {g : Nat} {o : PatOps} {x : Edit} (hx : (s.mould g).getEdit o.slot.toNat = some x)
    (hd : o.discard = true) (w : W512) (tile pcb : W64) (ok : Bool) (phase : Nat) :
    runCompact s g o w tile pcb ok phase = .done (s.updMould g fun m => m.setEdit o.slot.toNat none) allOnes := by
  simp only [runCompact, hx, hd, if_true]

theorem compactWithoutEdit : Claims.compactWithoutEdit := by
  intro s g o w tile pcb ok
  refine ⟨fun hx => runCompact_empty hx w tile pcb ok 0, fun x hx hd => ⟨_, runCompact_discard hx hd w tile pcb ok 0, ?_⟩⟩
  simp only [State.mould_updMould_same]
  exact ⟨by rw [Mould.getEdit_setEdit, if_pos rfl], rfl, rfl, rfl, rfl, fun j hj => State.mould_updMould_other _ _ _ _ hj⟩

/-- Settles O33: an instruction alone in its queue runs at once, and `COMPACT` without an edit to commit only empties its slot. -/
theorem patternInstructions : Obligations.PatternInstructions := ⟨patternInstructionsComplete, compactWithoutEdit⟩

end Sys2Proof.Machine
end
